-- ==== Sys2Proof/Word.lean ====
section
/-! DEFINITION. The word types of the block: the byte of a wire format (R57) and the 32-bit register and command
word (R22, R70), and the header fields at the widths of R7 (`MT_BITS`, `PBF_BITS`, `CMD_BITS`, `LEN_BITS`). -/

namespace Sys2Proof

/-- One byte of a wire format or of a buffer cell (R37, R57). -/
abbrev Byte := BitVec 8

/-- A 32-bit register or command word (R22, R70). -/
abbrev Word := BitVec 32

/-- An address of the 16-bit host window (R50). -/
abbrev HostAddr := BitVec 16

/-- The 3-bit header field message_type (R7 `MT_BITS`, R8). -/
abbrev MessageType := BitVec 3

/-- The 1-bit header field boundary_flag (R7 `PBF_BITS`, R8). -/
abbrev BoundaryFlag := BitVec 1

/-- The 12-bit header field command_id (R7 `CMD_BITS`). -/
abbrev CommandId := BitVec 12

end Sys2Proof
end

