-- ==== Sys2Proof/Config.lean ====
section
/-! DEFINITION. The implementation parameters of R7 as one record that every rule takes as an argument (R6), the
values DOC gives them, the fixed field widths, the names of R8, and the one free value: a draw (R56). -/

namespace Sys2Proof

/-- The parameters of R7 that a rule names. A meaning takes the record as an argument (R6); the field widths of R7
are the widths of the types in Sys2Proof/Word.lean and the constants below. -/
structure Params where
  /-- `LINK_FRAME`: header plus chunk, in bytes. -/
  linkFrame : Nat
  /-- `MAX_CHUNK_LIMIT`: the largest payload of one frame. -/
  maxChunkLimit : Nat
  /-- `MAX_CHUNK_RESET`: the reset value of `SEG_MAXCHUNK`. -/
  maxChunkReset : Nat
  /-- `MAX_REASSEMBLED_SIZE`: the largest sealed size. -/
  maxReassembledSize : Nat
  /-- `MAX_FRAMES`: frames accepted without a LAST frame. -/
  maxFrames : Nat
  /-- `LAST_BEATS_LIMIT`: the reading of the frame limit (R146, 90_conflicts.md C5). -/
  lastBeatsLimit : Bool
  /-- `MIN_INBOUND`: the shortest inbound frame. -/
  minInbound : Nat
  /-- `IN_HDR_OFF`: where the header of an inbound frame starts. -/
  inHdrOff : Nat
  /-- `IN_PAY_OFF`: where the payload of an inbound frame starts. -/
  inPayOff : Nat
  /-- `INTER_SEGMENT_GAP` in milliseconds: a host duty that no rule of the block reads (R172, R189). -/
  interSegmentGapMs : Nat
  /-- `MT_RESPONSE`: the message_type the Reassembler accepts. -/
  mtResponse : MessageType
  /-- `PBF_LAST`: the boundary_flag of the last frame. -/
  pbfLast : BoundaryFlag
  /-- `SEG_CAPACITY`: bytes of `SEG_BUF`. -/
  segCapacity : Nat
  /-- `FRAME_OUT_CAPACITY`: bytes of `FRAME_OUT`. -/
  frameOutCapacity : Nat
  /-- `FRAME_IN_CAPACITY`: bytes of `FRAME_IN`. -/
  frameInCapacity : Nat
  /-- `RSM_CAPACITY`: bytes of `RSM_BUF`. -/
  rsmCapacity : Nat
  deriving DecidableEq, Repr

/-- NOT_LAST = 1 − `PBF_LAST` (R7, R8). -/
def Params.pbfNotLast (p : Params) : BoundaryFlag := 1#1 - p.pbfLast

/-- `HDR_BYTES` of R7. -/
abbrev Config.hdrBytes : Nat := 4
/-- `MT_BITS` of R7. -/
abbrev Config.mtBits : Nat := 3
/-- `PBF_BITS` of R7. -/
abbrev Config.pbfBits : Nat := 1
/-- `CMD_BITS` of R7. -/
abbrev Config.cmdBits : Nat := 12
/-- `LEN_BITS` of R7. -/
abbrev Config.lenBits : Nat := 8

/-- The parameter values of R7: DOC's where DOC gives one, the spec's decisions elsewhere. The literals are
unaudited (R6), hence UNSAFE to rely on: log entry 7. -/
def Config.params : Params where
  linkFrame := 255
  maxChunkLimit := 251
  maxChunkReset := 251
  maxReassembledSize := 700
  maxFrames := 10
  lastBeatsLimit := true
  minInbound := 8
  inHdrOff := 4
  inPayOff := 8
  interSegmentGapMs := 10
  mtResponse := 2#3
  pbfLast := 0#1
  segCapacity := 700
  frameOutCapacity := 255
  frameInCapacity := 264
  rsmCapacity := 700

/-- message_type RFU (R8). -/
abbrev Config.mtRfu : MessageType := 0#3
/-- message_type COMMAND (R8). -/
abbrev Config.mtCommand : MessageType := 1#3
/-- message_type NOTIFICATION (R8). RESPONSE is the parameter `mtResponse`. -/
abbrev Config.mtNotification : MessageType := 3#3

/-- The free value of the model, DESIGN CHOICE of its form (log entry 3): the byte the host receives from its n-th
read of a buffer cell that nothing has written, "a draw" that "may differ between two reads" (R56). It has no body,
so nothing can be proved of its value. -/
opaque Config.drawByte : Nat → Byte

end Sys2Proof
end

