-- ==== Sys2Proof/Syntax.lean ====
section
/-! DEFINITION. The commands of the block, one constructor per row of the opcode map (R77); operands have exactly the
widths of their fields (R72 to R75), so no operand of a command can be out of its field's range. -/

namespace Sys2Proof

/-- A command of the block (R77). Operands are the unsigned values of their fields (R72 to R75). -/
inductive Instr where
  /-- HDR_ENC, format H (R72, R103). -/
  | hdrEnc (mt : MessageType) (pbf : BoundaryFlag) (cmd : CommandId) (len : Byte)
  /-- HDR_DEC, format K (R75, R105). -/
  | hdrDec (n : BitVec 9)
  /-- SET_MAXCHUNK, format K (R75, R121). -/
  | setMaxchunk (n : BitVec 9)
  /-- SEG_START, format S (R73, R123); `len` is the field L. -/
  | segStart (mt : MessageType) (cmd : CommandId) (len : BitVec 10)
  /-- SEG_NEXT, format N (R71, R125). -/
  | segNext
  /-- SEG_FAIL, format N (R71, R127). -/
  | segFail
  /-- RSM_START, format C (R74, R141). -/
  | rsmStart (cmd : CommandId)
  /-- RSM_PUSH, format K (R75, R143). -/
  | rsmPush (n : BitVec 9)
  deriving DecidableEq, Repr

/-- The opcode field [31:28] of each command (R77). -/
def Instr.opcode : Instr → BitVec 4
  | .hdrEnc .. => 0x1#4
  | .hdrDec .. => 0x2#4
  | .setMaxchunk .. => 0x3#4
  | .segStart .. => 0x4#4
  | .segNext => 0x5#4
  | .segFail => 0x6#4
  | .rsmStart .. => 0x7#4
  | .rsmPush .. => 0x8#4

end Sys2Proof
end

