-- ==== Sys2Proof/WellFormed.lean ====
section
/-! DEFINITION. What is well formed: a line of assembler source whose operands fit their fields (R86), a command word
whose opcode and reserved bits are legal (R76 to R78), and parameter values that keep the constraints of R7 and R51.
A command (`Instr`) needs no check of its own: its operands have the widths of their fields (R72). -/

namespace Sys2Proof

/-! ### Assembler source (R86) -/

/-- One command as the assembly source writes it: operands are numbers of any size, checked against their fields
before a word is made (R86: too wide "is an assembly error, not a truncation"). -/
inductive Source where
  | hdrEnc (mt pbf cmd len : Nat)
  | hdrDec (n : Nat)
  | setMaxchunk (n : Nat)
  | segStart (mt cmd len : Nat)
  | segNext
  | segFail
  | rsmStart (cmd : Nat)
  | rsmPush (n : Nat)
  deriving DecidableEq, Repr

/-- `v` fits a field of `bits` bits. -/
def fitsField (bits v : Nat) : Bool := decide (v < 2 ^ bits)

/-- Every operand fits its field (R72 to R75, R86). -/
def Source.wellFormed : Source → Bool
  | .hdrEnc mt pbf cmd len => fitsField 3 mt && fitsField 1 pbf && fitsField 12 cmd && fitsField 8 len
  | .hdrDec n => fitsField 9 n
  | .setMaxchunk n => fitsField 9 n
  | .segStart mt cmd len => fitsField 3 mt && fitsField 12 cmd && fitsField 10 len
  | .segNext => true
  | .segFail => true
  | .rsmStart cmd => fitsField 12 cmd
  | .rsmPush n => fitsField 9 n

/-- A command written back as source. -/
def Instr.toSource : Instr → Source
  | .hdrEnc mt pbf cmd len => .hdrEnc mt.toNat pbf.toNat cmd.toNat len.toNat
  | .hdrDec n => .hdrDec n.toNat
  | .setMaxchunk n => .setMaxchunk n.toNat
  | .segStart mt cmd len => .segStart mt.toNat cmd.toNat len.toNat
  | .segNext => .segNext
  | .segFail => .segFail
  | .rsmStart cmd => .rsmStart cmd.toNat
  | .rsmPush n => .rsmPush n.toNat

/-! ### Command words (R76 to R78) -/

/-- The opcodes of R77, with MATCH and MASK of each row: (op, MATCH, MASK). -/
def opcodeMasks : List (BitVec 4 × Word × Word) :=
  [(0x1, 0x10000000, 0xF000000F), (0x2, 0x20000000, 0xFFFFFE00), (0x3, 0x30000000, 0xFFFFFE00),
   (0x4, 0x40000000, 0xF1000C00), (0x5, 0x50000000, 0xFFFFFFFF), (0x6, 0x60000000, 0xFFFFFFFF),
   (0x7, 0x70000000, 0xFF000FFF), (0x8, 0x80000000, 0xFFFFFE00)]

/-- The word's opcode is in R77's map and its reserved bits are zero (R76, R78). -/
def wordLegal (w : Word) : Bool :=
  opcodeMasks.any fun r => w.extractLsb' 28 4 == r.1 && w &&& r.2.2 == r.2.1

/-! ### Parameters (R7, R51) -/

/-- The constraints R7 puts on the parameters, and the capacity bound of R51. -/
def Params.wellFormed (p : Params) : Bool :=
  decide (1 ≤ p.maxChunkReset) && decide (p.maxChunkReset ≤ p.maxChunkLimit) && decide (p.maxChunkLimit ≤ 251) &&
  decide (1 ≤ p.maxFrames) && decide (p.maxFrames ≤ 14) &&
  decide (p.minInbound = p.inPayOff) && decide (p.inPayOff = p.inHdrOff + Config.hdrBytes) &&
  decide (p.rsmCapacity = p.maxReassembledSize) && decide (p.maxReassembledSize ≤ 1023) &&
  decide (p.segCapacity ≤ 1023) && decide (p.frameInCapacity ≤ 511) &&
  decide (p.frameOutCapacity = Config.hdrBytes + p.maxChunkLimit) && decide (p.frameOutCapacity ≤ p.linkFrame) &&
  decide (p.segCapacity ≤ 0x1000) && decide (p.frameOutCapacity ≤ 0x1000) &&
  decide (p.frameInCapacity ≤ 0x1000) && decide (p.rsmCapacity ≤ 0x1000)

end Sys2Proof
end

