-- ==== Sys2Proof/Decode.lean ====
section
/-! DEFINITION. The command decoder (R76, R77), total on every word and refusing by name, and the encoder written
from the format tables (R71 to R75); the assembler's checked encoding (R86); the host's view of the opcode table. -/

namespace Sys2Proof

/-- Why a word is no command (R78): both reasons raise ILLEGAL_COMMAND. -/
inductive DecodeError where
  /-- The opcode is 0x0 or 0x9 to 0xF. -/
  | reservedOpcode
  /-- A reserved bit of the opcode's format is set. -/
  | reservedBits
  deriving DecidableEq, Repr

/-! ### Fields (R71 to R75) -/

/-- op, [31:28] in every format (R70). -/
def opField (w : Word) : BitVec 4 := w.extractLsb' 28 4
/-- mt, [27:25] of formats H and S. -/
def mtField (w : Word) : MessageType := w.extractLsb' 25 3
/-- pbf, [24] of format H. -/
def pbfField (w : Word) : BoundaryFlag := w.extractLsb' 24 1
/-- cmd, [23:12] of formats H, S and C. -/
def cmdField (w : Word) : CommandId := w.extractLsb' 12 12
/-- len, [11:4] of format H. -/
def lenField (w : Word) : Byte := w.extractLsb' 4 8
/-- L, [9:0] of format S. -/
def segLenField (w : Word) : BitVec 10 := w.extractLsb' 0 10
/-- n, [8:0] of format K. -/
def countField (w : Word) : BitVec 9 := w.extractLsb' 0 9

/-! ### Decoding (R76, R77) -/

/-- The command of a word whose reserved bits are known to be zero: the row of R77 its opcode names. -/
def commandOf (w : Word) : Option Instr :=
  match opField w with
  | 0x1#4 => some (.hdrEnc (mtField w) (pbfField w) (cmdField w) (lenField w))
  | 0x2#4 => some (.hdrDec (countField w))
  | 0x3#4 => some (.setMaxchunk (countField w))
  | 0x4#4 => some (.segStart (mtField w) (cmdField w) (segLenField w))
  | 0x5#4 => some .segNext
  | 0x6#4 => some .segFail
  | 0x7#4 => some (.rsmStart (cmdField w))
  | 0x8#4 => some (.rsmPush (countField w))
  | _ => none

/-- The bits each format reserves (R71 to R75): the mask of R77 without the opcode. -/
def reservedMask : Instr → Word
  | .hdrEnc .. => 0x0000000F
  | .hdrDec .. => 0x0FFFFE00
  | .setMaxchunk .. => 0x0FFFFE00
  | .segStart .. => 0x01000C00
  | .segNext => 0x0FFFFFFF
  | .segFail => 0x0FFFFFFF
  | .rsmStart .. => 0x0F000FFF
  | .rsmPush .. => 0x0FFFFE00

/-- The total decoder of R76: a command, or the reason the word is illegal (R78). -/
def decode (w : Word) : Except DecodeError Instr :=
  match commandOf w with
  | none => .error .reservedOpcode
  | some i => if w &&& reservedMask i = 0 then .ok i else .error .reservedBits

/-! ### Encoding (R71 to R75) -/

/-- Format N (R71): op, then 28 reserved bits. -/
def formatN (op : BitVec 4) : Word := op ++ 0#28
/-- Format H (R72): op, mt, pbf, cmd, len, then 4 reserved bits. -/
def formatH (op : BitVec 4) (mt : MessageType) (pbf : BoundaryFlag) (cmd : CommandId) (len : Byte) : Word :=
  op ++ mt ++ pbf ++ cmd ++ len ++ 0#4
/-- Format S (R73): op, mt, a reserved bit, cmd, two reserved bits, L. -/
def formatS (op : BitVec 4) (mt : MessageType) (cmd : CommandId) (len : BitVec 10) : Word :=
  op ++ mt ++ 0#1 ++ cmd ++ 0#2 ++ len
/-- Format C (R74): op, 4 reserved bits, cmd, 12 reserved bits. -/
def formatC (op : BitVec 4) (cmd : CommandId) : Word := op ++ 0#4 ++ cmd ++ 0#12
/-- Format K (R75): op, 19 reserved bits, n. -/
def formatK (op : BitVec 4) (n : BitVec 9) : Word := op ++ 0#19 ++ n

/-- The word of a command (R71 to R77). -/
def encode : Instr → Word
  | .hdrEnc mt pbf cmd len => formatH 0x1 mt pbf cmd len
  | .hdrDec n => formatK 0x2 n
  | .setMaxchunk n => formatK 0x3 n
  | .segStart mt cmd len => formatS 0x4 mt cmd len
  | .segNext => formatN 0x5
  | .segFail => formatN 0x6
  | .rsmStart cmd => formatC 0x7 cmd
  | .rsmPush n => formatK 0x8 n

/-! ### The assembler's words (R86) -/

/-- The command of a source line whose operands fit (R86). -/
def Source.instr : Source → Instr
  | .hdrEnc mt pbf cmd len => .hdrEnc (.ofNat 3 mt) (.ofNat 1 pbf) (.ofNat 12 cmd) (.ofNat 8 len)
  | .hdrDec n => .hdrDec (.ofNat 9 n)
  | .setMaxchunk n => .setMaxchunk (.ofNat 9 n)
  | .segStart mt cmd len => .segStart (.ofNat 3 mt) (.ofNat 12 cmd) (.ofNat 10 len)
  | .segNext => .segNext
  | .segFail => .segFail
  | .rsmStart cmd => .rsmStart (.ofNat 12 cmd)
  | .rsmPush n => .rsmPush (.ofNat 9 n)

/-- Assembling a source line: its word, or an assembly error (none) where an operand is too wide (R86). -/
def assemble (c : Source) : Option Word := if c.wellFormed then some (encode c.instr) else none

/-- What the decoder reads from an instruction of the opcode table: every row is one 32-bit command word (R70), so the
table's bit numbers are the word's; bits at or above `nbits` are zero. -/
def decodeTableWord (nbits w : Nat) : Option Instr :=
  match decode (BitVec.ofNat 32 (w % 2 ^ nbits)) with
  | .ok i => some i
  | .error _ => none

end Sys2Proof
end

