-- ==== Sys2Proof/Machine/State.lean ====
section
/-! DEFINITION. The state of the block: the record of R42, field for field, and beside it the model's own input and
output (the reset pin, the host actions to come, the datum of the last read, the count of draws), with the state
after reset (R41, R180) and the ways a step can stop (R167, R168). -/

namespace Sys2Proof.Machine

/-- The status codes of R160. -/
inductive Code where
  | ok
  | formatError
  | protocolMismatch
  | limitExceeded
  | transportError
  | sequenceError
  | argumentError
  | illegalCommand
  deriving DecidableEq, Repr

/-- The states of the Segmenter (R24). -/
inductive SegState where
  | idle
  | active
  | done
  | error
  deriving DecidableEq, Repr

/-- The states of the Reassembler (R25). -/
inductive RsmState where
  | idle
  | collecting
  | sealed
  | error
  deriving DecidableEq, Repr

/-- The four buffers (R37). -/
inductive Buf where
  | segBuf
  | frameOut
  | frameIn
  | rsmBuf
  deriving DecidableEq, Repr

/-- The model faults of R167 and R168: what the `faulted` mark of R42 can hold. -/
inductive ModelFault where
  /-- A command read an undef cell as data (R167). -/
  | undefinedRead
  /-- A host access that R52 or R53 rules out (R168). -/
  | hostBusMisuse
  deriving DecidableEq, Repr

/-- What the outside world does to the block: the host actions of R87, an access of any other width (which R52 rules
out), and the two edges of the reset input (R180). -/
inductive HostEvent where
  /-- `WR32 addr, v` (R87). -/
  | wr32 (addr : HostAddr) (v : Word)
  /-- `WR8 addr, b` (R87). -/
  | wr8 (addr : HostAddr) (b : Byte)
  /-- `RD32 addr` (R87). -/
  | rd32 (addr : HostAddr)
  /-- `RD8 addr` (R87). -/
  | rd8 (addr : HostAddr)
  /-- An access of a width other than 32 or 8 bits (R52). -/
  | otherWidth (bits : Nat) (addr : HostAddr)
  /-- The platform asserts the reset input (R180). -/
  | assertReset
  /-- The platform releases the reset input (R180). -/
  | releaseReset
  deriving DecidableEq, Repr

/-- The defined cells of a buffer: (index, byte) pairs. A cell that is not listed is `undef` (R38), so the one
canonical form has indices strictly rising and needs nothing more: no byte reads as an unlisted cell does. -/
abbrev Memory := List Host.Cell

/-- The canonical form: indices strictly rising. -/
abbrev Memory.wf (m : Memory) : Prop := m.Pairwise fun c d => c.1 < d.1

/-- The state of the block: R42's record, field for field and nothing else. A buffer, there a function from its indices,
is the list of its defined cells (log entry 11); `State.record` of Sys2Proof/Machine/Record.lean reads it as R42 writes
it. -/
structure Block where
  /-- `STATUS.LAST_CODE` (R23). -/
  lastCode : BitVec 4
  /-- `STATUS.SEG_STATE` (R24). -/
  segState : SegState
  /-- `STATUS.RSM_STATE` (R25). -/
  rsmState : RsmState
  /-- `STATUS.SEG_ERR` (R26). -/
  segErr : BitVec 4
  /-- `STATUS.RSM_ERR` (R26). -/
  rsmErr : BitVec 4
  /-- `STATUS.RSM_LIMIT_CAUSE` (R27). -/
  rsmLimitCause : BitVec 2
  /-- `DIN` (R28). -/
  din : Word
  /-- `HDR_OUT` (R29). -/
  hdrOut : Word
  /-- `DEC_MT` (R30). -/
  decMt : MessageType
  /-- `DEC_PBF` (R30). -/
  decPbf : BoundaryFlag
  /-- `DEC_CMD` (R30). -/
  decCmd : CommandId
  /-- `DEC_LEN` (R30). -/
  decLen : Byte
  /-- `DEC_RSV` (R30). -/
  decRsv : Byte
  /-- `SEG_MAXCHUNK` (R31). -/
  segMaxChunk : BitVec 8
  /-- `SEG_CMD` (R32). -/
  segCmd : CommandId
  /-- `SEG_MT` (R32). -/
  segMt : MessageType
  /-- `SEG_LEN` (R32). -/
  segLen : BitVec 10
  /-- `SEG_OFF` (R32). -/
  segOff : BitVec 10
  /-- `SEG_NFRAMES` (R32). -/
  segNframes : BitVec 10
  /-- `SEG_CHUNK` (R32). -/
  segChunk : BitVec 8
  /-- `FRAME_OUT_LEN` (R34). -/
  frameOutLen : BitVec 9
  /-- `RSM_CMD` (R35). -/
  rsmCmd : CommandId
  /-- `RSM_LEN` (R35). -/
  rsmLen : BitVec 10
  /-- `RSM_NFRAMES` (R35). -/
  rsmNframes : BitVec 4
  /-- `SEG_BUF` (R37). -/
  segBuf : Memory
  /-- `FRAME_OUT` (R37). -/
  frameOut : Memory
  /-- `FRAME_IN` (R37). -/
  frameIn : Memory
  /-- `RSM_BUF` (R37). -/
  rsmBuf : Memory
  /-- The model-fault mark (R42, R167, R168). -/
  faulted : Option ModelFault
  deriving DecidableEq, Repr

/-- The machine that steps: the block (R42), and beside it what the outside world drives and receives, which is no state
of the block. A step is a function of one state, so the host's and the platform's side of it (R20, R180) stands here:
the model's own fields of log entries 1, 2, 3 and 5. -/
structure State extends Block where
  /-- The reset input is asserted (R180); the model's own field, log entry 5. -/
  resetIn : Bool
  /-- The host actions still to come, first to be made first (R20, R60); the model's own field, log entry 1. -/
  pending : List HostEvent
  /-- What the host action just made returned to the host; the model's own field, log entry 2. -/
  readData : Option Word
  /-- How many draws (R56) the host has received; the model's own field, log entry 3. -/
  draws : Nat
  deriving DecidableEq, Repr

/-- Why a step stops. Each constructor carries the state the fault leaves: the state before it with `faulted` set and
no other write (R53, R167, R168; log entry 4). -/
inductive Fault where
  /-- R167. Raised by SEG_NEXT and RSM_PUSH where a cell they read as data is undef, and by every later step of a state
  so marked. SAFE: on the hardware the read uses whatever the cell holds, and nothing is proved past the fault. -/
  | undefinedRead (after : State)
  /-- R168. Raised by a host access that R52 or R53 rules out, and by every later step of a state so marked. SAFE: the
  hardware's response is unspecified, and nothing is proved past the fault. -/
  | hostBusMisuse (after : State)
  deriving DecidableEq, Repr

/-- Why a step has no meaning. -/
inductive Refusal where
  /-- An instruction that `exec` gives no meaning yet; no arm of this model raises it. SAFE: nothing is proved past it. -/
  | notModelled (mnemonic : String)
  deriving DecidableEq, Repr

/-- The state after reset for parameters `p` (R41, R180): every register at its listed value, every cell undef,
`faulted` clear; the model's own fields as log entries 1, 2, 3 and 5 say. -/
def State.resetWith (p : Params) : State where
  lastCode := 0
  segState := .idle
  rsmState := .idle
  segErr := 0
  rsmErr := 0
  rsmLimitCause := 0
  din := 0
  hdrOut := 0
  decMt := 0
  decPbf := 0
  decCmd := 0
  decLen := 0
  decRsv := 0
  segMaxChunk := BitVec.ofNat 8 p.maxChunkReset
  segCmd := 0
  segMt := 0
  segLen := 0
  segOff := 0
  segNframes := 0
  segChunk := 0
  frameOutLen := 0
  rsmCmd := 0
  rsmLen := 0
  rsmNframes := 0
  segBuf := []
  frameOut := []
  frameIn := []
  rsmBuf := []
  faulted := none
  resetIn := false
  pending := []
  readData := none
  draws := 0

/-- The state right after reset (R41, R180). -/
def State.reset : State := State.resetWith Config.params

end Sys2Proof.Machine
end

