-- ==== Sys2Proof/Machine/Flags.lean ====
section
/-! DEFINITION. The numbers behind the names of STATUS: the status codes (R160), the encodings of the unit states (R24,
R25), and the whole STATUS word (R23). -/

namespace Sys2Proof.Machine

/-- The number of a status code (R160). -/
def Code.bits : Code → BitVec 4
  | .ok => 0
  | .formatError => 1
  | .protocolMismatch => 2
  | .limitExceeded => 3
  | .transportError => 4
  | .sequenceError => 5
  | .argumentError => 6
  | .illegalCommand => 7

/-- The encoding of `SEG_STATE` (R24). -/
def SegState.bits : SegState → BitVec 2
  | .idle => 0
  | .active => 1
  | .done => 2
  | .error => 3

/-- The encoding of `RSM_STATE` (R25). -/
def RsmState.bits : RsmState → BitVec 2
  | .idle => 0
  | .collecting => 1
  | .sealed => 2
  | .error => 3

/-- `STATUS` (R23): 14 bits that read as zero, then RSM_LIMIT_CAUSE, RSM_ERR, SEG_ERR, RSM_STATE, SEG_STATE and
LAST_CODE, from bit 31 down. -/
def State.statusWord (s : State) : Word :=
  0#14 ++ s.rsmLimitCause ++ s.rsmErr ++ s.segErr ++ s.rsmState.bits ++ s.segState.bits ++ s.lastCode

end Sys2Proof.Machine
end

