-- ==== Sys2Proof/Machine/Ops.lean ====
section
/-! DEFINITION. The named operations: MemRead and MemWrite on a buffer (R11), the two ways a command ends (`complete`
and `raise`, R11, R163), the Reassembler's error transition (R142), and the two model faults (R167, R168).

`raise` is the block's one shared operation for an exceptional end: a status code, no saved state, no mode and no
handler (R165), so there is no return from an exception to model. -/

namespace Sys2Proof.Machine

/-! ### Buffers (R11, R38) -/

/-- `BUF[i]` (R11): the byte of a cell, or none where the cell is undef (R38). -/
def Memory.read : Memory → Nat → Option Byte
  | [], _ => none
  | (a, b) :: rest, i => if a = i then some b else Memory.read rest i

/-- `BUF[i] <- v` (R11): the cell becomes defined and holds `v` (R38). -/
def Memory.write : Memory → Nat → Byte → Memory
  | [], i, v => [(i, v)]
  | (a, b) :: rest, i, v =>
    if i < a then (i, v) :: (a, b) :: rest
    else if i = a then (i, v) :: rest
    else (a, b) :: Memory.write rest i v

/-- `MemRead(BUF, i, n)` (R11): the bytes `BUF[i..i+n)`, or none where some cell of the range is undef. -/
def Memory.readRange (m : Memory) : Nat → Nat → Option (List Byte)
  | _, 0 => some []
  | i, n + 1 =>
    match m.read i, Memory.readRange m (i + 1) n with
    | some b, some bs => some (b :: bs)
    | _, _ => none

/-- `MemWrite(BUF, i, n, bytes)` (R11). -/
def Memory.writeRange (m : Memory) : Nat → List Byte → Memory
  | _, [] => m
  | i, b :: bs => Memory.writeRange (m.write i b) (i + 1) bs

/-- The contents of a buffer (R37). -/
def State.buffer (s : State) : Buf → Memory
  | .segBuf => s.segBuf
  | .frameOut => s.frameOut
  | .frameIn => s.frameIn
  | .rsmBuf => s.rsmBuf

/-- Cell `i` of a buffer: its byte, or none where it is undef (R38). -/
def State.cell (s : State) (b : Buf) (i : Nat) : Option Byte := (s.buffer b).read i

/-- The size of a buffer (R37). -/
def Buf.capacity (p : Params) : Buf → Nat
  | .segBuf => p.segCapacity
  | .frameOut => p.frameOutCapacity
  | .frameIn => p.frameInCapacity
  | .rsmBuf => p.rsmCapacity

/-! ### How a command ends (R11, R163) -/

/-- A command ends with a status code: `raise` where it is an error (R163), and the last part of `complete`. The
writes the rule made before stand in `s`. -/
def State.raise (c : Code) (s : State) : State := { s with lastCode := c.bits }

/-- `complete` (R11): the command ends with OK. -/
def State.complete (s : State) : State := s.raise .ok

/-- `rsmFail(code, cause)` (R142): the Reassembler's error transition. -/
def State.rsmFail (c : Code) (cause : BitVec 2) (s : State) : State :=
  { s with rsmState := .error, rsmErr := c.bits, rsmLimitCause := cause }.raise c

/-! ### Model faults (R167, R168) -/

/-- The fault's name and the state it leaves. -/
def ModelFault.stop (f : ModelFault) (after : State) : Fault :=
  match f with
  | .undefinedRead => .undefinedRead after
  | .hostBusMisuse => .hostBusMisuse after

/-- Set the `faulted` mark and make no other write (R53, R167, R168). -/
def State.mark (f : ModelFault) (s : State) : State := { s with faulted := some f }

/-- Raise a model fault in state `s`: the machine stops, and the state it leaves is `s` with the mark set. -/
def State.modelFault (f : ModelFault) (s : State) : Host.Outcome State Fault Refusal := .fault (f.stop (s.mark f))

end Sys2Proof.Machine
end

