-- ==== Sys2Proof/Machine/Operands.lean ====
section
/-! DEFINITION. The operand forms: the segmentation header as bytes and as fields (R80, R100, R101), the header bytes of
a 32-bit register (R58), and the ranges of the buffers that the commands read (R83, R124). -/

namespace Sys2Proof.Machine

/-- A decoded segmentation header with its reserved byte (R101). -/
structure Header where
  mt : MessageType
  pbf : BoundaryFlag
  cmd : CommandId
  len : Byte
  rsv : Byte
  deriving DecidableEq, Repr

/-- `hdrEncode` (R100): DOC's formula, byte 0 first. The shifts are of 8-bit values and lose nothing, since mt ≤ 7 and
pbf ≤ 1. -/
def hdrEncode (mt : MessageType) (pbf : BoundaryFlag) (cmd : CommandId) (len : Byte) : List Byte :=
  [(mt.setWidth 8 <<< 5) ||| (pbf.setWidth 8 <<< 4) ||| ((cmd >>> 8).setWidth 8 &&& 0xF#8),
   (cmd &&& 0xFF#12).setWidth 8,
   0#8,
   len]

/-- `hdrDecode` (R101): none is FormatError, fewer than 4 bytes; bytes beyond the fourth are not read and byte 2 is
returned unchecked. -/
def hdrDecode : List Byte → Option Header
  | b0 :: b1 :: b2 :: b3 :: _ =>
    some { mt := b0.extractLsb' 5 3, pbf := b0.extractLsb' 4 1, cmd := b0.extractLsb' 0 4 ++ b1, len := b3, rsv := b2 }
  | _ => none

/-- The 4 header bytes a 32-bit register holds, wire byte 0 in [31:24] (R28, R58). -/
def registerBytes (w : Word) : List Byte :=
  [w.extractLsb' 24 8, w.extractLsb' 16 8, w.extractLsb' 8 8, w.extractLsb' 0 8]

/-- The 32-bit register value of header bytes, wire byte 0 in [31:24] (R58): `(b0 << 24) | (b1 << 16) | (b2 << 8) | b3`.
Bytes past the fourth do not occur. -/
def bytesRegister : List Byte → Word
  | b0 :: b1 :: b2 :: b3 :: _ =>
    (b0.setWidth 32 <<< 24) ||| (b1.setWidth 32 <<< 16) ||| (b2.setWidth 32 <<< 8) ||| b3.setWidth 32
  | _ => 0

/-- The length of the next chunk, `min(SEG_CHUNK, SEG_LEN − SEG_OFF)` on naturals (R10, R124). -/
def State.chunkLen (s : State) : Nat := min s.segChunk.toNat (s.segLen.toNat - s.segOff.toNat)

/-- The next chunk is the last: `SEG_OFF + n = SEG_LEN` (R124). -/
def State.chunkLast (s : State) : Bool := decide (s.segOff.toNat + s.chunkLen = s.segLen.toNat)

/-- The boundary_flag of the next frame (R125). -/
def State.chunkFlag (p : Params) (s : State) : BoundaryFlag := if s.chunkLast then p.pbfLast else p.pbfNotLast

/-- The bytes of the next chunk, `SEG_BUF[SEG_OFF..SEG_OFF+n)`, or none where one is undef (R125). -/
def State.chunkBytes (s : State) : Option (List Byte) := s.segBuf.readRange s.segOff.toNat s.chunkLen

/-- The header bytes of the inbound frame, `FRAME_IN[4..8)` (R83), or none where one is undef. -/
def State.inboundHeader (p : Params) (s : State) : Option (List Byte) := s.frameIn.readRange p.inHdrOff Config.hdrBytes

/-- The payload of the inbound frame, `FRAME_IN[8..8+len)` (R83), or none where a byte is undef. -/
def State.inboundPayload (p : Params) (len : Nat) (s : State) : Option (List Byte) := s.frameIn.readRange p.inPayOff len

end Sys2Proof.Machine
end

