-- ==== Sys2Proof/Machine/HeaderCodec.lean ====
section
/-! DEFINITION. The HeaderCodec's commands: HDR_ENC (R103) and HDR_DEC (R104, R105). -/

namespace Sys2Proof.Machine

/-- HDR_ENC (R103). -/
def execHdrEnc (mt : MessageType) (pbf : BoundaryFlag) (cmd : CommandId) (len : Byte) (s : State) :
    Host.Outcome State Fault Refusal :=
  .next { s with hdrOut := bytesRegister (hdrEncode mt pbf cmd len) }.complete

/-- HDR_DEC (R105): with fewer than 4 bytes supplied FORMAT_ERROR and nothing decoded; otherwise the fields of `DIN`. -/
def execHdrDec (n : BitVec 9) (s : State) : Host.Outcome State Fault Refusal :=
  if n.toNat < Config.hdrBytes then .next (s.raise .formatError)
  else
    match hdrDecode (registerBytes s.din) with
    | none => .next (s.raise .formatError)
    | some h =>
      .next { s with decMt := h.mt, decPbf := h.pbf, decCmd := h.cmd, decLen := h.len, decRsv := h.rsv }.complete

end Sys2Proof.Machine
end

