-- ==== Sys2Proof/Machine/Reassembler.lean ====
section
/-! DEFINITION. The Reassembler's commands: RSM_START (R141) and RSM_PUSH (R143), over any parameters (R6) and then at
the values of R7. -/

namespace Sys2Proof.Machine

/-- RSM_START (R141): legal in every state of the Reassembler. -/
def execRsmStart (cmd : CommandId) (s : State) : Host.Outcome State Fault Refusal :=
  .next
    { s with rsmCmd := cmd, rsmLen := 0, rsmNframes := 0, rsmState := .collecting, rsmErr := 0,
             rsmLimitCause := 0 }.complete

/-- The end of RSM_PUSH once the payload is appended: seal, stay, or fail on the frame limit (R143, R146). `count` is
the number of frames consumed with this one, as a natural number (R10). -/
def State.settleFrame (p : Params) (pbf : BoundaryFlag) (count : Nat) (s : State) : State :=
  if p.lastBeatsLimit = false ∧ p.maxFrames < count then s.rsmFail .limitExceeded 1
  else if pbf = p.pbfLast then { s with rsmState := .sealed }.complete
  else if p.maxFrames < count then s.rsmFail .limitExceeded 1
  else s.complete

/-- The frame is consumed: `RSM_NFRAMES` counts it (R143). -/
def State.countFrame (s : State) : State := { s with rsmNframes := BitVec.ofNat 4 (s.rsmNframes.toNat + 1) }

/-- Append a payload to `RSM_BUF` (R143). -/
def State.appendPayload (payload : List Byte) (s : State) : State :=
  { s with
    rsmBuf := s.rsmBuf.writeRange s.rsmLen.toNat payload
    rsmLen := BitVec.ofNat 10 (s.rsmLen.toNat + payload.length) }

/-- RSM_PUSH from the decoded header on (R143): the protocol check (R144), the payload's format (R147), the size limit
(R145), the append and the end of the frame (R146). -/
def consumeFrame (p : Params) (n : Nat) (h : Header) (s : State) : Host.Outcome State Fault Refusal :=
  if h.cmd ≠ s.rsmCmd ∨ h.mt ≠ p.mtResponse then .next (s.rsmFail .protocolMismatch 0)
  else if p.maxChunkLimit < h.len.toNat ∨ n < p.inPayOff + h.len.toNat then .next (s.rsmFail .formatError 0)
  else if p.maxReassembledSize < s.rsmLen.toNat + h.len.toNat then .next (s.countFrame.rsmFail .limitExceeded 2)
  else
    match s.inboundPayload p h.len.toNat with
    | none => s.modelFault .undefinedRead
    | some payload => .next ((s.countFrame.appendPayload payload).settleFrame p h.pbf (s.rsmNframes.toNat + 1))

/-- RSM_PUSH (R143), the checks in the rule's order (R164). -/
def rsmPushWith (p : Params) (n : BitVec 9) (s : State) : Host.Outcome State Fault Refusal :=
  if s.rsmState ≠ .collecting then .next (s.raise .sequenceError)
  else if p.frameInCapacity < n.toNat then .next (s.raise .argumentError)
  else if n.toNat < p.minInbound then .next (s.rsmFail .formatError 0)
  else
    match s.inboundHeader p with
    | none => s.modelFault .undefinedRead
    | some bytes =>
      match hdrDecode bytes with
      | none => .next (s.rsmFail .formatError 0)
      | some h => consumeFrame p n.toNat h s

/-- RSM_PUSH at the parameters of R7. -/
def execRsmPush (n : BitVec 9) (s : State) : Host.Outcome State Fault Refusal := rsmPushWith Config.params n s

end Sys2Proof.Machine
end

