-- ==== Sys2Proof/Machine/Segmenter.lean ====
section
/-! DEFINITION. The Segmenter's commands: SET_MAXCHUNK (R121), SEG_START (R123), SEG_NEXT (R124, R125) and SEG_FAIL
(R127), each over any parameters (R6) and then at the values of R7. -/

namespace Sys2Proof.Machine

/-- SET_MAXCHUNK (R121). -/
def setMaxchunkWith (p : Params) (n : BitVec 9) (s : State) : State :=
  if n.toNat = 0 ∨ p.maxChunkLimit < n.toNat then s.raise .argumentError
  else { s with segMaxChunk := n.setWidth 8 }.complete

/-- SET_MAXCHUNK at the parameters of R7. -/
def execSetMaxchunk (n : BitVec 9) (s : State) : Host.Outcome State Fault Refusal :=
  .next (setMaxchunkWith Config.params n s)

/-- SEG_START (R123): legal in every state of the Segmenter. -/
def segStartWith (p : Params) (mt : MessageType) (cmd : CommandId) (len : BitVec 10) (s : State) : State :=
  if p.segCapacity < len.toNat then s.raise .argumentError
  else
    { s with
      segMt := mt, segCmd := cmd, segLen := len, segOff := 0, segNframes := 0, segChunk := s.segMaxChunk,
      segState := .active, segErr := 0 }.complete

/-- SEG_START at the parameters of R7. -/
def execSegStart (mt : MessageType) (cmd : CommandId) (len : BitVec 10) (s : State) :
    Host.Outcome State Fault Refusal :=
  .next (segStartWith Config.params mt cmd len s)

/-- The frame SEG_NEXT leaves once the chunk's bytes are known (R81, R125): header and chunk in `FRAME_OUT`, the
counters advanced, DONE after the last chunk. -/
def State.emitFrame (p : Params) (chunk : List Byte) (s : State) : State :=
  { s with
    frameOut :=
      (s.frameOut.writeRange 0 (hdrEncode s.segMt (s.chunkFlag p) s.segCmd (BitVec.ofNat 8 s.chunkLen))).writeRange
        Config.hdrBytes chunk
    frameOutLen := BitVec.ofNat 9 (Config.hdrBytes + s.chunkLen)
    segOff := BitVec.ofNat 10 (s.segOff.toNat + s.chunkLen)
    segNframes := BitVec.ofNat 10 (s.segNframes.toNat + 1)
    segState := if s.chunkLast then .done else s.segState }

/-- SEG_NEXT (R125). -/
def segNextWith (p : Params) (s : State) : Host.Outcome State Fault Refusal :=
  if s.segState ≠ .active then .next (s.raise .sequenceError)
  else
    match s.chunkBytes with
    | none => s.modelFault .undefinedRead
    | some chunk => .next (s.emitFrame p chunk).complete

/-- SEG_NEXT at the parameters of R7. -/
def execSegNext (s : State) : Host.Outcome State Fault Refusal := segNextWith Config.params s

/-- A send can have failed: the Segmenter is ACTIVE or DONE and has emitted a frame (R127). -/
def State.sendMayFail (s : State) : Bool :=
  (decide (s.segState = .active) || decide (s.segState = .done)) && decide (s.segNframes ≠ 0)

/-- SEG_FAIL (R127). -/
def execSegFail (s : State) : Host.Outcome State Fault Refusal :=
  if s.sendMayFail then .next { s with segState := .error, segErr := Code.transportError.bits }.complete
  else .next (s.raise .sequenceError)

end Sys2Proof.Machine
end

