-- ==== Sys2Proof/Machine/Dispatch.lean ====
section
/-! DEFINITION. One command, one atomic transition (R20, R76): each command of R77 to its meaning. -/

namespace Sys2Proof.Machine

def exec (i : Instr) (s : State) : Host.Outcome State Fault Refusal :=
  match i with
  | .hdrEnc mt pbf cmd len => Sys2Proof.Machine.execHdrEnc mt pbf cmd len s
  | .hdrDec n => Sys2Proof.Machine.execHdrDec n s
  | .setMaxchunk n => Sys2Proof.Machine.execSetMaxchunk n s
  | .segStart mt cmd len => Sys2Proof.Machine.execSegStart mt cmd len s
  | .segNext => Sys2Proof.Machine.execSegNext s
  | .segFail => Sys2Proof.Machine.execSegFail s
  | .rsmStart cmd => Sys2Proof.Machine.execRsmStart cmd s
  | .rsmPush n => Sys2Proof.Machine.execRsmPush n s

end Sys2Proof.Machine
end

