-- ==== Sys2Proof/Machine/HostBus.lean ====
section
/-! DEFINITION. The host window (R50, R51): which place an address names, what a read returns (R54, R56), what a write
does (R52, R53), the execution of a command word (R76), and the reset input (R180). What a
parameter concerns takes the parameters, and what runs a command takes the meanings of the commands (R6): `step` gives
them the values of R7 and `exec`, and `stepWith p` of Sys2Proof/Machine/Parametric.lean gives them `p` throughout. -/

namespace Sys2Proof.Machine

/-- What the commands of R77 do: `exec`, or the same at other parameters (R6). -/
abbrev Meanings := Instr → State → Host.Outcome State Fault Refusal

/-- The registers of the host window (R51). -/
inductive Reg where
  | cmd | status | din | hdrOut | decMt | decPbf | decCmd | decLen | decRsv
  | segMaxChunk | segCmd | segMt | segLen | segOff | segNframes | segChunk
  | frameOutLen | rsmCmd | rsmLen | rsmNframes
  deriving DecidableEq, Repr

/-- What an address of the host window names (R51). -/
inductive Place where
  | reg (r : Reg)
  | cell (b : Buf) (i : Nat)
  deriving DecidableEq, Repr

/-- The registers in the order of their offsets: register k is at address 4k (R51). -/
def registerMap : List Reg :=
  [.cmd, .status, .din, .hdrOut, .decMt, .decPbf, .decCmd, .decLen, .decRsv,
   .segMaxChunk, .segCmd, .segMt, .segLen, .segOff, .segNframes, .segChunk,
   .frameOutLen, .rsmCmd, .rsmLen, .rsmNframes]

/-- The base address of a buffer (R51). -/
def Buf.base : Buf → Nat
  | .segBuf => 0x1000
  | .frameOut => 0x2000
  | .frameIn => 0x3000
  | .rsmBuf => 0x4000

/-- Address `a` lies in the buffer's window (R51). -/
def Buf.holds (p : Params) (b : Buf) (a : Nat) : Bool := decide (b.base ≤ a) && decide (a < b.base + b.capacity p)

/-- The place an address names, or none where it is unmapped (R51) or inside a register and so misaligned (R52). -/
def locate (p : Params) (addr : HostAddr) : Option Place :=
  let a := addr.toNat
  if a % 4 = 0 ∧ a / 4 < registerMap.length then (registerMap[a / 4]?).map .reg
  else
    ([Buf.segBuf, .frameOut, .frameIn, .rsmBuf].find? fun b => b.holds p a).map fun b => .cell b (a - b.base)

/-- The value a 32-bit read of a register returns: unused upper bits read zero (R23, R28 to R32, R34, R35). `CMD` holds
no state (R22), and `readRegister` never asks for it. -/
def State.register (s : State) : Reg → Word
  | .cmd => 0
  | .status => s.statusWord
  | .din => s.din
  | .hdrOut => s.hdrOut
  | .decMt => s.decMt.setWidth 32
  | .decPbf => s.decPbf.setWidth 32
  | .decCmd => s.decCmd.setWidth 32
  | .decLen => s.decLen.setWidth 32
  | .decRsv => s.decRsv.setWidth 32
  | .segMaxChunk => s.segMaxChunk.setWidth 32
  | .segCmd => s.segCmd.setWidth 32
  | .segMt => s.segMt.setWidth 32
  | .segLen => s.segLen.setWidth 32
  | .segOff => s.segOff.setWidth 32
  | .segNframes => s.segNframes.setWidth 32
  | .segChunk => s.segChunk.setWidth 32
  | .frameOutLen => s.frameOutLen.setWidth 32
  | .rsmCmd => s.rsmCmd.setWidth 32
  | .rsmLen => s.rsmLen.setWidth 32
  | .rsmNframes => s.rsmNframes.setWidth 32

/-- The host receives a datum; nothing of the block changes (R54). -/
def State.returning (v : Word) (s : State) : State := { s with readData := some v }

/-- `RD32` of a register (R54); a read of `CMD` is a misuse (R22, R53). -/
def readRegister (r : Reg) (s : State) : Host.Outcome State Fault Refusal :=
  match r with
  | .cmd => s.modelFault .hostBusMisuse
  | _ => .next (s.returning (s.register r))

/-- `RD8` of a cell: its byte, or a draw where the cell is undef (R56). -/
def readCell (b : Buf) (i : Nat) (s : State) : Host.Outcome State Fault Refusal :=
  match s.cell b i with
  | some v => .next (s.returning (v.setWidth 32))
  | none => .next { s with readData := some ((Config.drawByte s.draws).setWidth 32), draws := s.draws + 1 }

/-- A host write of `w` to `CMD` (R76): an illegal word raises ILLEGAL_COMMAND, a command is executed. -/
def runWord (run : Meanings) (w : Word) (s : State) : Host.Outcome State Fault Refusal :=
  match decode w with
  | .ok i => run i s
  | .error _ => .next (s.raise .illegalCommand)

/-- A host write of `w` to `CMD` at the parameters of R7. -/
def execWord (w : Word) (s : State) : Host.Outcome State Fault Refusal := runWord exec w s

/-- `WR32` of a register: `CMD` executes a command (R22), `DIN` takes the value (R28), every other register is
read-only (R53). -/
def writeRegister (run : Meanings) (r : Reg) (v : Word) (s : State) : Host.Outcome State Fault Refusal :=
  match r with
  | .cmd => runWord run v s
  | .din => .next { s with din := v }
  | _ => s.modelFault .hostBusMisuse

/-- `WR8` of a cell: `SEG_BUF` and `FRAME_IN` take the byte, `FRAME_OUT` and `RSM_BUF` are read-only (R37, R53). -/
def writeCell (b : Buf) (i : Nat) (v : Byte) (s : State) : Host.Outcome State Fault Refusal :=
  match b with
  | .segBuf => .next { s with segBuf := s.segBuf.write i v }
  | .frameIn => .next { s with frameIn := s.frameIn.write i v }
  | .frameOut => s.modelFault .hostBusMisuse
  | .rsmBuf => s.modelFault .hostBusMisuse

/-- A host access by its width (R52): registers take 32-bit accesses, cells take byte accesses, and every other access
is a misuse. The edges of the reset input are no access. -/
def hostAccess (p : Params) (run : Meanings) (e : HostEvent) (s : State) : Host.Outcome State Fault Refusal :=
  match e with
  | .rd32 a =>
    match locate p a with
    | some (.reg r) => readRegister r s
    | _ => s.modelFault .hostBusMisuse
  | .rd8 a =>
    match locate p a with
    | some (.cell b i) => readCell b i s
    | _ => s.modelFault .hostBusMisuse
  | .wr32 a v =>
    match locate p a with
    | some (.reg r) => writeRegister run r v s
    | _ => s.modelFault .hostBusMisuse
  | .wr8 a v =>
    match locate p a with
    | some (.cell b i) => writeCell b i v s
    | _ => s.modelFault .hostBusMisuse
  | .otherWidth _ _ => s.modelFault .hostBusMisuse
  | .assertReset => .next s
  | .releaseReset => .next s

/-- The state when reset is released (R180): R41's values, the mark clear (R180 says so, and R42 that nothing clears it:
log entry 6); what the outside world still has to do and the count of draws go on. -/
def State.afterReset (p : Params) (s : State) : State :=
  { State.resetWith p with pending := s.pending, draws := s.draws }

/-- One event of the outside world. While reset is asserted no access takes effect (R180); a faulted state has no
meaning for an access (R42, log entry 4). -/
def hostEvent (p : Params) (run : Meanings) (e : HostEvent) (s : State) : Host.Outcome State Fault Refusal :=
  match e with
  | .assertReset => .next { s with resetIn := true }
  | .releaseReset => .next (if s.resetIn then s.afterReset p else s)
  | e =>
    if s.resetIn then .next s
    else
      match s.faulted with
      | some f => .fault (f.stop s)
      | none => hostAccess p run e s

/-- Nothing to do: the block waits for the host (R20), and a faulted state stays stopped (R42). -/
def idle (s : State) : Host.Outcome State Fault Refusal :=
  match s.faulted with
  | some f => .fault (f.stop s)
  | none => .next s

/-- The next event of the outside world, taken off the list; what the access before it returned is gone (log entry 2). -/
def hostStep (p : Params) (run : Meanings) (s : State) : Host.Outcome State Fault Refusal :=
  match s.pending with
  | [] => idle s
  | e :: rest => hostEvent p run e { s with pending := rest, readData := none }

/-- The host's write of a command word to `CMD` (R87: a command line abbreviates it). -/
def commandEvent (w : Word) : HostEvent := .wr32 0x0000 w

/-- `FILL BUF, i, bytes` (R87): a byte write of each byte at the next address. DESIGN CHOICE, log entry 13: an address
`base(BUF)+i+k` above 0xFFFF, to which a 16-bit window (R50) gives no meaning, is taken modulo 2^16. -/
def fillEvents (b : Buf) : Nat → List Byte → List HostEvent
  | _, [] => []
  | i, v :: vs => .wr8 (BitVec.ofNat 16 (b.base + i)) v :: fillEvents b (i + 1) vs

end Sys2Proof.Machine
end

