-- ==== Sys2Proof/Machine/Step.lean ====
section
/-! DEFINITION. One step: the next action of the outside world, made whole (R20, R60). The block fetches nothing (R62):
a command arrives as a host write to CMD, so the next instruction stands at the head of `pending`. -/

namespace Sys2Proof.Machine

/-- One step of the machine: one host action, or one edge of the reset input (R20, R60, R180). -/
def step (s : State) : Host.Outcome State Fault Refusal := hostStep Config.params exec s

/-- `s` with the host about to write the command word `w` (its low `nbits` bits) to `CMD`: the very next step runs it.
The write needs reset released and no model fault standing (log entry 9). -/
def State.withFetchWord (s : State) (nbits w : Nat) : State :=
  { s with
    pending := commandEvent (BitVec.ofNat 32 (w % 2 ^ nbits)) :: s.pending
    resetIn := false
    faulted := none }

end Sys2Proof.Machine
end

