-- ==== Sys2Proof/Machine/Assembler.lean ====
section
/-! DEFINITION. The assembly syntax of R86 as text: one command a line, a mnemonic and operands separated by commas,
in decimal or with a 0x in front, with the symbolic operands of R8. How blanks and letters of a hex number are read is
DESIGN CHOICE, log entry 10. -/

namespace Sys2Proof.Machine

/-- A line without the blanks at its ends. -/
def trimBlanks (cs : List Char) : List Char :=
  (((cs.dropWhile (· == ' ')).reverse).dropWhile (· == ' ')).reverse

/-- The pieces of a text between commas. -/
def splitAtCommas : List Char → List (List Char)
  | [] => [[]]
  | c :: cs =>
    match splitAtCommas cs with
    | [] => [[c]]
    | piece :: rest => if c = ',' then [] :: piece :: rest else (c :: piece) :: rest

/-- The value of a digit below `base`. -/
def digitValue (base : Nat) (c : Char) : Option Nat :=
  let v :=
    if '0' ≤ c ∧ c ≤ '9' then c.toNat - '0'.toNat
    else if 'a' ≤ c ∧ c ≤ 'f' then c.toNat - 'a'.toNat + 10
    else if 'A' ≤ c ∧ c ≤ 'F' then c.toNat - 'A'.toNat + 10
    else base
  if v < base then some v else none

/-- The number a row of digits continues. -/
def readDigits (base acc : Nat) : List Char → Option Nat
  | [] => some acc
  | c :: cs =>
    match digitValue base c with
    | some v => readDigits base (acc * base + v) cs
    | none => none

/-- A number in decimal or with a 0x in front (R86). -/
def readNumber : List Char → Option Nat
  | [] => none
  | ['0', 'x'] => none
  | '0' :: 'x' :: ds => readDigits 16 0 ds
  | ds => readDigits 10 0 ds

/-- An mt operand: a number or a name of R8. -/
def readMt (p : Params) (cs : List Char) : Option Nat :=
  if cs = "RFU".toList then some Config.mtRfu.toNat
  else if cs = "COMMAND".toList then some Config.mtCommand.toNat
  else if cs = "RESPONSE".toList then some p.mtResponse.toNat
  else if cs = "NOTIFICATION".toList then some Config.mtNotification.toNat
  else readNumber cs

/-- A pbf operand: a number, LAST or NOT_LAST (R86). -/
def readPbf (p : Params) (cs : List Char) : Option Nat :=
  if cs = "LAST".toList then some p.pbfLast.toNat
  else if cs = "NOT_LAST".toList then some p.pbfNotLast.toNat
  else readNumber cs

/-- The command of a mnemonic and its operands (R86). -/
def readCommand (p : Params) (mnemonic : List Char) (ops : List (List Char)) : Option Source :=
  match ops with
  | [] =>
    if mnemonic = "SEG_NEXT".toList then some .segNext
    else if mnemonic = "SEG_FAIL".toList then some .segFail
    else none
  | [a] =>
    if mnemonic = "HDR_DEC".toList then (readNumber a).map .hdrDec
    else if mnemonic = "SET_MAXCHUNK".toList then (readNumber a).map .setMaxchunk
    else if mnemonic = "RSM_START".toList then (readNumber a).map .rsmStart
    else if mnemonic = "RSM_PUSH".toList then (readNumber a).map .rsmPush
    else none
  | [a, b, c] =>
    if mnemonic = "SEG_START".toList then
      match readMt p a, readNumber b, readNumber c with
      | some mt, some cmd, some len => some (.segStart mt cmd len)
      | _, _, _ => none
    else none
  | [a, b, c, d] =>
    if mnemonic = "HDR_ENC".toList then
      match readMt p a, readPbf p b, readNumber c, readNumber d with
      | some mt, some pbf, some cmd, some len => some (.hdrEnc mt pbf cmd len)
      | _, _, _, _ => none
    else none
  | _ => none

/-- One line of assembly (R86). -/
def readLine (p : Params) (line : String) : Option Source :=
  let text := trimBlanks line.toList
  let operands := trimBlanks (text.dropWhile (· != ' '))
  readCommand p (text.takeWhile (· != ' ')) (if operands = [] then [] else (splitAtCommas operands).map trimBlanks)

/-- The word of one line of assembly, or an assembly error (R86). -/
def assembleLine (p : Params) (line : String) : Option Word := (readLine p line).bind assemble

end Sys2Proof.Machine
end

