-- ==== Sys2Proof/Machine/Parametric.lean ====
section
/-! DEFINITION. The block at any parameters (R6): what each command of R77 does, what a command word does and what a step
does in the block built with parameters `p`. `exec`, `execWord` and `step` are these at the values of R7, and
`State.resetWith p` is the state such a block starts from. -/

namespace Sys2Proof.Machine

/-- One command, one atomic transition (R20, R76), at parameters `p` (R6). No parameter of R7 concerns HDR_ENC, HDR_DEC,
SEG_FAIL and RSM_START but the fixed widths. -/
def execWith (p : Params) (i : Instr) (s : State) : Host.Outcome State Fault Refusal :=
  match i with
  | .hdrEnc mt pbf cmd len => execHdrEnc mt pbf cmd len s
  | .hdrDec n => execHdrDec n s
  | .setMaxchunk n => .next (setMaxchunkWith p n s)
  | .segStart mt cmd len => .next (segStartWith p mt cmd len s)
  | .segNext => segNextWith p s
  | .segFail => execSegFail s
  | .rsmStart cmd => execRsmStart cmd s
  | .rsmPush n => rsmPushWith p n s

/-- A host write of a word to `CMD` (R76), at parameters `p` (R6). -/
def execWordWith (p : Params) (w : Word) (s : State) : Host.Outcome State Fault Refusal := runWord (execWith p) w s

/-- One step of the block built with parameters `p` (R6): its window, its commands and its reset values. -/
def stepWith (p : Params) (s : State) : Host.Outcome State Fault Refusal := hostStep p (execWith p) s

end Sys2Proof.Machine
end

