-- ==== Sys2Proof/Machine/Record.lean ====
section
/-! DEFINITION. The state of the block as R42 writes it: the record with its buffers as functions from their indices, at
any parameters (R6), and the reading of a model state as that record. -/

namespace Sys2Proof.Machine

/-- R42's record, field for field, type for type. -/
structure Record (p : Params) where
  lastCode : Fin 16
  segState : SegState
  rsmState : RsmState
  segErr : Fin 16
  rsmErr : Fin 16
  rsmLimitCause : Fin 4
  din : UInt32
  hdrOut : UInt32
  decMt : Fin 8
  decPbf : Fin 2
  decCmd : Fin 4096
  decLen : Fin 256
  decRsv : Fin 256
  segMaxChunk : Fin 256
  segCmd : Fin 4096
  segMt : Fin 8
  segLen : Fin 1024
  segOff : Fin 1024
  segNframes : Fin 1024
  segChunk : Fin 256
  frameOutLen : Fin 512
  rsmCmd : Fin 4096
  rsmLen : Fin 1024
  rsmNframes : Fin 16
  segBuf : Fin p.segCapacity → Option Byte
  frameOut : Fin p.frameOutCapacity → Option Byte
  frameIn : Fin p.frameInCapacity → Option Byte
  rsmBuf : Fin p.rsmCapacity → Option Byte
  faulted : Option ModelFault

/-- The record a model state stands for (R42): the same numbers, and each buffer read cell by cell. -/
def State.record (p : Params) (s : State) : Record p where
  lastCode := s.lastCode.toFin
  segState := s.segState
  rsmState := s.rsmState
  segErr := s.segErr.toFin
  rsmErr := s.rsmErr.toFin
  rsmLimitCause := s.rsmLimitCause.toFin
  din := UInt32.ofBitVec s.din
  hdrOut := UInt32.ofBitVec s.hdrOut
  decMt := s.decMt.toFin
  decPbf := s.decPbf.toFin
  decCmd := s.decCmd.toFin
  decLen := s.decLen.toFin
  decRsv := s.decRsv.toFin
  segMaxChunk := s.segMaxChunk.toFin
  segCmd := s.segCmd.toFin
  segMt := s.segMt.toFin
  segLen := s.segLen.toFin
  segOff := s.segOff.toFin
  segNframes := s.segNframes.toFin
  segChunk := s.segChunk.toFin
  frameOutLen := s.frameOutLen.toFin
  rsmCmd := s.rsmCmd.toFin
  rsmLen := s.rsmLen.toFin
  rsmNframes := s.rsmNframes.toFin
  segBuf := fun i => s.cell .segBuf i.val
  frameOut := fun i => s.cell .frameOut i.val
  frameIn := fun i => s.cell .frameIn i.val
  rsmBuf := fun i => s.cell .rsmBuf i.val
  faulted := s.faulted

end Sys2Proof.Machine
end

