-- ==== Sys2Proof/Machine/Results.lean ====
section
/-! DEFINITION. What the block's results are (R40, R190) and what the two units compute, apart from any machine: the
segmentation of a payload (R120), the frame of a chunk (R81), the inbound frame (R83) and the reassembly of a sequence
of inbound frames (R140). -/

namespace Sys2Proof.Machine

/-! ### Results and ends (R40, R190) -/

/-- The result of a reassembly, `RSM_BUF[0..RSM_LEN)`, and only while SEALED (R40). -/
def State.result (s : State) : Option (List Byte) :=
  if s.rsmState = .sealed then s.rsmBuf.readRange 0 s.rsmLen.toNat else none

/-- The bytes accumulated so far, `RSM_BUF[0..RSM_LEN)` (R35). -/
def State.accumulated (s : State) : Option (List Byte) := s.rsmBuf.readRange 0 s.rsmLen.toNat

/-- The frame in `FRAME_OUT`, `FRAME_OUT[0..FRAME_OUT_LEN)` (R34, R40). -/
def State.output (s : State) : Option (List Byte) := s.frameOut.readRange 0 s.frameOutLen.toNat

/-- A segmentation has ended (R190): DONE or ERROR. -/
def State.segEnded (s : State) : Bool := decide (s.segState = .done) || decide (s.segState = .error)

/-- A reassembly has ended (R190): SEALED or ERROR. -/
def State.rsmEnded (s : State) : Bool := decide (s.rsmState = .sealed) || decide (s.rsmState = .error)

/-! ### Segmentation (R120) -/

/-- The number of chunks of a payload of length `len` at chunk size `m` (R120, R126): 1 for an empty payload, else
`ceil(len / m)`. -/
def chunkCount (len m : Nat) : Nat := if len = 0 then 1 else (len + m - 1) / m

/-- Chunk `k` of R120: `P[k·m .. min((k+1)·m, len))`. -/
def chunkAt (payload : List Byte) (m k : Nat) : List Byte :=
  (payload.drop (k * m)).take (min ((k + 1) * m) payload.length - k * m)

/-- The boundary_flag of chunk `k` of R120. -/
def flagAt (p : Params) (len m k : Nat) : BoundaryFlag :=
  if k = chunkCount len m - 1 then p.pbfLast else p.pbfNotLast

/-- `segment(P, L, M)` (R120): the chunks in order, each with its boundary_flag. -/
def segment (p : Params) (payload : List Byte) (m : Nat) : List (List Byte × BoundaryFlag) :=
  (List.range (chunkCount payload.length m)).map fun k => (chunkAt payload m k, flagAt p payload.length m k)

/-- The outbound frame of a chunk (R81): its header, then its bytes. -/
def outboundFrame (mt : MessageType) (cmd : CommandId) (chunk : List Byte) (pbf : BoundaryFlag) : List Byte :=
  hdrEncode mt pbf cmd (BitVec.ofNat 8 chunk.length) ++ chunk

/-! ### Reassembly (R140) -/

/-- How far a reassembly has got (R140): still collecting, with the bytes and frames consumed so far; sealed with its
result; or failed with its code and the cause of R27. -/
inductive Reassembly where
  | collecting (acc : List Byte) (count : Nat)
  | sealed (bytes : List Byte)
  | failed (code : Code) (cause : BitVec 2)
  deriving DecidableEq, Repr

/-- A frame whose header is `h` joins the accumulator (R144 to R147). -/
def Reassembly.join (p : Params) (expected : CommandId) (frame : List Byte) (h : Header) (acc : List Byte)
    (count : Nat) : Reassembly :=
  if h.cmd ≠ expected ∨ h.mt ≠ p.mtResponse then .failed .protocolMismatch 0
  else if p.maxChunkLimit < h.len.toNat ∨ frame.length < p.inPayOff + h.len.toNat then .failed .formatError 0
  else if p.maxReassembledSize < acc.length + h.len.toNat then .failed .limitExceeded 2
  else if h.pbf = p.pbfLast ∧ (p.lastBeatsLimit ∨ count + 1 ≤ p.maxFrames) then
    .sealed (acc ++ (frame.drop p.inPayOff).take h.len.toNat)
  else if p.maxFrames < count + 1 then .failed .limitExceeded 1
  else .collecting (acc ++ (frame.drop p.inPayOff).take h.len.toNat) (count + 1)

/-- One inbound frame, given as its bytes, is consumed (R140): nothing follows a seal or a failure. -/
def Reassembly.absorb (p : Params) (expected : CommandId) (r : Reassembly) (frame : List Byte) : Reassembly :=
  match r with
  | .collecting acc count =>
    if frame.length < p.minInbound then .failed .formatError 0
    else
      match hdrDecode (frame.drop p.inHdrOff) with
      | none => .failed .formatError 0
      | some h => Reassembly.join p expected frame h acc count
  | r => r

/-- The reassembly of a sequence of inbound frames in arrival order (R140). -/
def reassemble (p : Params) (expected : CommandId) (frames : List (List Byte)) : Reassembly :=
  frames.foldl (Reassembly.absorb p expected) (.collecting [] 0)

/-- The Reassembler's registers and buffer hold this much of a reassembly for the expected command_id (R35, R36, R40). -/
def State.represents (s : State) (expected : CommandId) (r : Reassembly) : Prop :=
  s.rsmCmd = expected ∧
  match r with
  | .collecting acc count =>
    s.rsmState = .collecting ∧ s.accumulated = some acc ∧ s.rsmNframes.toNat = count
  | .sealed bytes => s.result = some bytes
  | .failed code cause => s.rsmState = .error ∧ s.rsmErr = code.bits ∧ s.rsmLimitCause = cause

end Sys2Proof.Machine
end

