-- ==== Sys2Proof/Machine/Runs.lean ====
section
/-! DEFINITION. Sequences of commands, for the rules that speak of several (R126, R150): commands one after another, and
the host's relay of one frame from the Segmenter to the Reassembler. -/

namespace Sys2Proof.Machine

/-- Commands one after another (R60), up to the first that does not complete. -/
def execAll : List Instr → State → Host.Outcome State Fault Refusal
  | [], s => .next s
  | i :: rest, s =>
    match exec i s with
    | .next t => execAll rest t
    | o => o

/-- The host puts a frame into `FRAME_IN` from index 0 (R83, R183). -/
def State.placeInbound (frame : List Byte) (s : State) : State := { s with frameIn := s.frameIn.writeRange 0 frame }

/-- One inbound frame pushed: placed in `FRAME_IN`, then RSM_PUSH of its length (R143, R151). -/
def pushFrame (frame : List Byte) (s : State) : Host.Outcome State Fault Refusal :=
  exec (.rsmPush (BitVec.ofNat 9 frame.length)) (s.placeInbound frame)

/-- Inbound frames pushed one after another, in arrival order (R64, R140). -/
def pushAll : List (List Byte) → State → Host.Outcome State Fault Refusal
  | [], s => .next s
  | frame :: rest, s =>
    match pushFrame frame s with
    | .next t => pushAll rest t
    | o => o

/-- One round of R150's loop: SEG_NEXT, then its frame, wrapped in the bytes before and after it (R83), pushed. -/
def relayFrame (before after : List Byte) (s : State) : Host.Outcome State Fault Refusal :=
  match exec .segNext s with
  | .next t =>
    match t.output with
    | some frame => pushFrame (before ++ frame ++ after) t
    | none => .next t
  | o => o

/-- As many rounds of R150's loop as there are wrappings: (bytes before, bytes after) for each frame. -/
def relayAll : List (List Byte × List Byte) → State → Host.Outcome State Fault Refusal
  | [], s => .next s
  | w :: rest, s =>
    match relayFrame w.1 w.2 s with
    | .next t => relayAll rest t
    | o => o

end Sys2Proof.Machine
end

