-- ==== Sys2Proof/Safety.lean ====
section
/-! DEFINITION. What holds of every state the block can reach (R12, R23, R26, R27, R31 to R36), the parts of the state
each unit owns (R65, R166), and a state with no model fault (R167). -/

namespace Sys2Proof.Machine

/-- No model fault stands (R167: every claim takes "no fault" as a premise). -/
abbrev State.sound (s : State) : Prop := s.faulted = none

/-- The host is about to make event `e` and the block can take it: reset released, no model fault (R60, R180). -/
def State.about (s : State) (e : HostEvent) (rest : List HostEvent) : Prop :=
  s.pending = e :: rest ∧ s.resetIn = false ∧ s.faulted = none

/-- The state once the next host action is taken off the list; what the access before it returned is gone (log entries
1 and 2). -/
def State.taking (rest : List HostEvent) (s : State) : State := { s with pending := rest, readData := none }

/-- A 32-bit host read of address `a` returns `v` and changes nothing of the block (R54). -/
def State.readsAs (s : State) (a : HostAddr) (v : Word) : Prop :=
  ∀ rest, s.about (.rd32 a) rest → step s = .next { s.taking rest with readData := some v }

/-- Event `e` is the model fault HostBusMisuse, which sets `faulted` and changes nothing else (R53, R168). -/
def State.misuses (s : State) (e : HostEvent) : Prop :=
  ∀ rest, s.about e rest → step s = .fault (.hostBusMisuse { s.taking rest with faulted := some .hostBusMisuse })

/-- The header bytes of the inbound frame are these, `FRAME_IN[4..8)` (R83). -/
abbrev State.headerIs (s : State) (b0 b1 b2 b3 : Byte) : Prop :=
  s.cell .frameIn 4 = some b0 ∧ s.cell .frameIn 5 = some b1 ∧ s.cell .frameIn 6 = some b2 ∧ s.cell .frameIn 7 = some b3

/-- The first header byte of an accepted inbound frame: message_type RESPONSE, the flag, command_id[11:8] (R80, R144). -/
def acceptedByte0 (pbf : BoundaryFlag) (cmd : CommandId) : Byte :=
  Config.params.mtResponse ++ pbf ++ cmd.extractLsb' 8 4

/-- An inbound frame of `n` bytes that passes every check up to the size limit (R143 to R147): COLLECTING, the frame
present and long enough, its header RESPONSE, `pbf`, the expected command_id and `len`. `rsv` is its unchecked byte. -/
structure State.accepts (s : State) (n : BitVec 9) (pbf : BoundaryFlag) (rsv len : Byte) : Prop where
  state : s.rsmState = .collecting
  count : n.toNat ≤ Config.params.frameInCapacity
  header : s.headerIs (acceptedByte0 pbf s.rsmCmd) (s.rsmCmd.extractLsb' 0 8) rsv len
  chunk : len.toNat ≤ Config.params.maxChunkLimit
  whole : Config.params.inPayOff + len.toNat ≤ n.toNat

/-- Every buffer in canonical form and inside its capacity (R37, R51). -/
structure BuffersOk (s : State) : Prop where
  wf : ∀ b, (s.buffer b).wf
  inside : ∀ b i, b.capacity Config.params ≤ i → s.cell b i = none

/-- The Segmenter's invariant: R33, with R12, R26, R31, R32 and R34. -/
structure SegmenterOk (s : State) : Prop where
  maxChunk : 1 ≤ s.segMaxChunk.toNat ∧ s.segMaxChunk.toNat ≤ Config.params.maxChunkLimit
  len : s.segLen.toNat ≤ Config.params.segCapacity
  off : s.segOff.toNat ≤ s.segLen.toNat
  frames : s.segNframes.toNat ≤ s.segOff.toNat ∨ s.segLen = 0 ∧ s.segNframes.toNat ≤ 1
  chunk : s.segState ≠ .idle → 1 ≤ s.segChunk.toNat ∧ s.segChunk.toNat ≤ Config.params.maxChunkLimit
  idle : s.segState = .idle → s.segChunk = 0 ∧ s.segLen = 0 ∧ s.segNframes = 0 ∧ s.segCmd = 0 ∧ s.segMt = 0
  active : s.segState = .active →
    s.segOff.toNat < s.segLen.toNat ∨ s.segOff = 0 ∧ s.segLen = 0 ∧ s.segNframes = 0
  done : s.segState = .done → s.segOff = s.segLen ∧ 1 ≤ s.segNframes.toNat
  err : s.segErr = if s.segState = .error then Code.transportError.bits else 0
  outLen : s.frameOutLen = 0 ∨
    Config.hdrBytes ≤ s.frameOutLen.toNat ∧ s.frameOutLen.toNat ≤ Config.params.frameOutCapacity
  outDefined : ∀ i, i < s.frameOutLen.toNat → (s.cell .frameOut i).isSome

/-- The Reassembler's invariant: the part of R36 that is about a state, with R12, R26, R27 and R35. -/
structure ReassemblerOk (s : State) : Prop where
  len : s.rsmLen.toNat ≤ Config.params.maxReassembledSize
  defined : ∀ i, i < s.rsmLen.toNat → (s.cell .rsmBuf i).isSome
  frames : s.rsmNframes.toNat ≤ Config.params.maxFrames + 1
  collecting : s.rsmState = .collecting → s.rsmNframes.toNat ≤ Config.params.maxFrames
  idle : s.rsmState = .idle → s.rsmLen = 0 ∧ s.rsmNframes = 0 ∧ s.rsmCmd = 0
  err : if s.rsmState = .error then
      s.rsmErr = Code.formatError.bits ∨ s.rsmErr = Code.protocolMismatch.bits ∨ s.rsmErr = Code.limitExceeded.bits
    else s.rsmErr = 0
  cause : if s.rsmErr = Code.limitExceeded.bits then s.rsmLimitCause = 1 ∨ s.rsmLimitCause = 2 else s.rsmLimitCause = 0

/-- The invariant of the block: the buffers, the two units, a status code that is written to `LAST_CODE` (R160: never
TRANSPORT_ERROR, never 8 to 15), and a header whose reserved byte is 0 in `HDR_OUT` (R103). -/
structure Inv (s : State) : Prop where
  buffers : BuffersOk s
  segmenter : SegmenterOk s
  reassembler : ReassemblerOk s
  code : ∃ c : Code, c ≠ .transportError ∧ s.lastCode = c.bits
  reserved : s.hdrOut.extractLsb' 8 8 = 0

/-! ### The parts of the state (R29 to R37, R65) -/

/-- The HeaderCodec's registers are the same: `HDR_OUT` and `DEC_*`. -/
def SameCodec (s t : State) : Prop :=
  t.hdrOut = s.hdrOut ∧ t.decMt = s.decMt ∧ t.decPbf = s.decPbf ∧ t.decCmd = s.decCmd ∧ t.decLen = s.decLen ∧
  t.decRsv = s.decRsv

/-- The Segmenter's registers and buffers are the same. -/
def SameSegmenter (s t : State) : Prop :=
  t.segState = s.segState ∧ t.segErr = s.segErr ∧ t.segMaxChunk = s.segMaxChunk ∧ t.segCmd = s.segCmd ∧
  t.segMt = s.segMt ∧ t.segLen = s.segLen ∧ t.segOff = s.segOff ∧ t.segNframes = s.segNframes ∧
  t.segChunk = s.segChunk ∧ t.frameOutLen = s.frameOutLen ∧ t.segBuf = s.segBuf ∧ t.frameOut = s.frameOut

/-- The Reassembler's registers and buffers are the same. -/
def SameReassembler (s t : State) : Prop :=
  t.rsmState = s.rsmState ∧ t.rsmErr = s.rsmErr ∧ t.rsmLimitCause = s.rsmLimitCause ∧ t.rsmCmd = s.rsmCmd ∧
  t.rsmLen = s.rsmLen ∧ t.rsmNframes = s.rsmNframes ∧ t.frameIn = s.frameIn ∧ t.rsmBuf = s.rsmBuf

/-- What only the outside world changes is the same: `DIN`, `SEG_BUF`, `FRAME_IN`, the reset input, the model-fault
mark, the host actions to come, the datum read and the draws (R28, R37, R167). -/
def SameOutside (s t : State) : Prop :=
  t.din = s.din ∧ t.segBuf = s.segBuf ∧ t.frameIn = s.frameIn ∧ t.resetIn = s.resetIn ∧ t.faulted = s.faulted ∧
  t.pending = s.pending ∧ t.readData = s.readData ∧ t.draws = s.draws

end Sys2Proof.Machine

namespace Sys2Proof

/-- The commands of the Segmenter (R121 to R127). -/
def Instr.isSegmenter : Instr → Bool
  | .setMaxchunk .. | .segStart .. | .segNext | .segFail => true
  | .hdrEnc .. | .hdrDec .. | .rsmStart .. | .rsmPush .. => false

/-- The commands of the Reassembler (R141, R143). -/
def Instr.isReassembler : Instr → Bool
  | .rsmStart .. | .rsmPush .. => true
  | .hdrEnc .. | .hdrDec .. | .setMaxchunk .. | .segStart .. | .segNext | .segFail => false

end Sys2Proof
end

