-- ==== Sys2Proof/Certificates/Slice0/Obligations.lean ====
section
/-! DEFINITION. The statements for the provers. Each is about the machine at the parameters of R7 unless it says
otherwise; parameters are named, as R6 asks. -/

open Sys2Proof Sys2Proof.Machine

/-! ### Encoding (30_encoding.md) -/

/-- Every command decodes back from its word, with every operand at every value its field admits (R72 to R75, R77). -/
def Obligations.DecodeEncodeAgree : Prop := ∀ i : Instr, decode (encode i) = .ok i

/-- A word that decodes to a command is that command's word: no bit of a legal word is dropped (R76, R78). -/
def Obligations.EncodeDecodeAgree : Prop := ∀ (w : Word) (i : Instr), decode w = .ok i → encode i = w

/-- R79: the decoder gives each word one verdict. A word is accepted exactly when one and only one row of R77's map has
its MATCH under its MASK, and refused exactly when no row has; the row's opcode is then the word's. -/
def Obligations.DecoderGivesEveryWordOneVerdict : Prop :=
  (∀ w : Word, (∃ i, decode w = .ok i) ↔ ∃! r, r ∈ opcodeMasks ∧ w &&& r.2.2 = r.2.1) ∧
  (∀ w : Word, (∃ e, decode w = .error e) ↔ ∀ r ∈ opcodeMasks, w &&& r.2.2 ≠ r.2.1) ∧
  (∀ (w : Word) (i : Instr), decode w = .ok i → opField w = i.opcode) ∧
  opcodeMasks.Pairwise fun r r' => r.1 ≠ r'.1

/-- R78: opcodes 0x0 and 0x9 to 0xF and any nonzero reserved bit of a format raise ILLEGAL_COMMAND (code 7) and change
only LAST_CODE; every other word is a command; and the operand values out of range are no illegal encodings but raise
ARGUMENT_ERROR (code 6; for RSM_PUSH once the Reassembler is COLLECTING, R164). -/
def Obligations.IllegalWordsAndOutOfRangeOperands : Prop :=
  (∀ (w : Word) (s : State),
    (opField w = 0 ∨ 9 ≤ (opField w).toNat ∨
      opField w = 1 ∧ w.extractLsb' 0 4 ≠ 0 ∨
      (opField w = 2 ∨ opField w = 3 ∨ opField w = 8) ∧ w.extractLsb' 9 19 ≠ 0 ∨
      opField w = 4 ∧ (w.extractLsb' 24 1 ≠ 0 ∨ w.extractLsb' 10 2 ≠ 0) ∨
      (opField w = 5 ∨ opField w = 6) ∧ w.extractLsb' 0 28 ≠ 0 ∨
      opField w = 7 ∧ (w.extractLsb' 24 4 ≠ 0 ∨ w.extractLsb' 0 12 ≠ 0)) →
    execWord w s = .next { s with lastCode := 7 }) ∧
  (∀ w : Word,
    (opField w = 1 ∧ w.extractLsb' 0 4 = 0 ∨
      (opField w = 2 ∨ opField w = 3 ∨ opField w = 8) ∧ w.extractLsb' 9 19 = 0 ∨
      opField w = 4 ∧ w.extractLsb' 24 1 = 0 ∧ w.extractLsb' 10 2 = 0 ∨
      (opField w = 5 ∨ opField w = 6) ∧ w.extractLsb' 0 28 = 0 ∨
      opField w = 7 ∧ w.extractLsb' 24 4 = 0 ∧ w.extractLsb' 0 12 = 0) →
    ∃ i, decode w = .ok i) ∧
  (∀ (n : BitVec 9) (s : State), n = 0 ∨ Config.params.maxChunkLimit < n.toNat →
    execWord (formatK 0x3 n) s = .next { s with lastCode := 6 }) ∧
  (∀ (mt : MessageType) (cmd : CommandId) (len : BitVec 10) (s : State), Config.params.segCapacity < len.toNat →
    execWord (formatS 0x4 mt cmd len) s = .next { s with lastCode := 6 }) ∧
  (∀ (n : BitVec 9) (s : State), s.rsmState = .collecting → Config.params.frameInCapacity < n.toNat →
    execWord (formatK 0x8 n) s = .next { s with lastCode := 6 })

/-- R76: a host write of a word to CMD runs exactly the command the word decodes to, on the state with that host action
taken off the list, and raises ILLEGAL_COMMAND where its opcode or its reserved bits are not those of a row of R77. -/
def Obligations.StepRunsTheCommandWritten : Prop :=
  ∀ (s : State) (w : Word) (rest : List HostEvent), s.about (.wr32 0x0000 w) rest →
    (∀ i, decode w = .ok i → step s = exec i (s.taking rest)) ∧
    (wordLegal w = true → ∃ i, decode w = .ok i ∧ opField w = i.opcode) ∧
    (wordLegal w = false → step s = .next { s.taking rest with lastCode := 7 })

/-- Words written out bit by bit from R71 to R75 decode to the command they stand for (95_test_vectors.md: VE1, VE2, VD5,
VW2, VW5, VW7, VW8 and section 4.3). -/
def Obligations.SampleWordsDecode : Prop :=
  decode 0x14123050 = .ok (.hdrEnc 2 0 0x123 5) ∧ decode 0x1FFFFFF0 = .ok (.hdrEnc 7 1 0xFFF 255) ∧
  decode 0x200001FF = .ok (.hdrDec 511) ∧ decode 0x300000C8 = .ok (.setMaxchunk 200) ∧
  decode 0x440A512C = .ok (.segStart 2 0x0A5 300) ∧ decode 0x50000000 = .ok .segNext ∧
  decode 0x60000000 = .ok .segFail ∧ decode 0x70123000 = .ok (.rsmStart 0x123) ∧
  decode 0x80000104 = .ok (.rsmPush 260)

/-- R86: a source line whose operands fit their fields assembles to the word that decodes to it, operand for operand,
and one with an operand too wide is an assembly error. -/
def Obligations.AssemblerKeepsOperands : Prop :=
  (∀ c : Source, c.wellFormed = true → ∃ w i, assemble c = some w ∧ decode w = .ok i ∧ i.toSource = c) ∧
  ∀ c : Source, c.wellFormed = false → assemble c = none

/-! ### HeaderCodec (40_header_codec.md) -/

/-- R102: decoding an encoded header gives back its fields with rsv = 0; re-encoding a decoded header gives back the
bytes with byte 2 replaced by 0; and hdrEncode is injective. -/
def Obligations.HeaderRoundTrip : Prop :=
  (∀ (mt : MessageType) (pbf : BoundaryFlag) (cmd : CommandId) (len : Byte),
    hdrDecode (hdrEncode mt pbf cmd len) = some ⟨mt, pbf, cmd, len, 0⟩) ∧
  (∀ (b0 b1 b2 b3 : Byte) (h : Header), hdrDecode [b0, b1, b2, b3] = some h →
    hdrEncode h.mt h.pbf h.cmd h.len = [b0, b1, 0, b3]) ∧
  ∀ (mt mt' : MessageType) (pbf pbf' : BoundaryFlag) (cmd cmd' : CommandId) (len len' : Byte),
    hdrEncode mt pbf cmd len = hdrEncode mt' pbf' cmd' len' → mt = mt' ∧ pbf = pbf' ∧ cmd = cmd' ∧ len = len'

/-- R103: HDR_ENC completes in every state, with `HDR_OUT` the header's bit fields from bit 31 down (mt, pbf, cmd, a zero
byte, len), LAST_CODE OK and nothing else changed; its word decodes to it, and a nonzero bit of [3:0] makes the word
illegal and leaves `HDR_OUT`. -/
def Obligations.HdrEncCompletes : Prop :=
  ∀ (mt : MessageType) (pbf : BoundaryFlag) (cmd : CommandId) (len : Byte) (s : State),
    exec (.hdrEnc mt pbf cmd len) s = .next { s with hdrOut := mt ++ pbf ++ cmd ++ 0#8 ++ len, lastCode := 0 } ∧
    assemble (Instr.hdrEnc mt pbf cmd len).toSource = some (0x1#4 ++ mt ++ pbf ++ cmd ++ len ++ 0#4) ∧
    decode (0x1#4 ++ mt ++ pbf ++ cmd ++ len ++ 0#4) = .ok (.hdrEnc mt pbf cmd len) ∧
    ∀ r : BitVec 4, r ≠ 0 →
      execWord (0x1#4 ++ mt ++ pbf ++ cmd ++ len ++ r) s = .next { s with lastCode := 7 }

/-- R105: HDR_DEC with n of at least 4 completes in every state with the fields of `DIN` in the DEC registers, and with n
below 4 raises FORMAT_ERROR and changes only LAST_CODE; its word decodes to it, and a nonzero bit of [27:9] makes the
word illegal. -/
def Obligations.HdrDecCompletes : Prop :=
  ∀ (n : BitVec 9) (s : State),
    (4 ≤ n.toNat → exec (.hdrDec n) s = .next { s with
      decMt := s.din.extractLsb' 29 3, decPbf := s.din.extractLsb' 28 1, decCmd := s.din.extractLsb' 16 12,
      decRsv := s.din.extractLsb' 8 8, decLen := s.din.extractLsb' 0 8, lastCode := 0 }) ∧
    (n.toNat < 4 → exec (.hdrDec n) s = .next { s with lastCode := 1 }) ∧
    assemble (Instr.hdrDec n).toSource = some (0x2#4 ++ 0#19 ++ n) ∧ decode (0x2#4 ++ 0#19 ++ n) = .ok (.hdrDec n) ∧
    ∀ r : BitVec 19, r ≠ 0 → execWord (0x2#4 ++ r ++ n) s = .next { s with lastCode := 7 }

/-- R106: after a successful HDR_DEC the DEC registers are the fields of `DIN`; and HDR_ENC, a host copy of `HDR_OUT`
into `DIN` and `HDR_DEC 4` give back the operands, with `DEC_RSV` = 0. -/
def Obligations.HeaderRoundTripThroughRegisters : Prop :=
  (∀ (n : BitVec 9) (s t : State), exec (.hdrDec n) s = .next t → t.lastCode = 0 →
    t.decMt = s.din.extractLsb' 29 3 ∧ t.decPbf = s.din.extractLsb' 28 1 ∧ t.decCmd = s.din.extractLsb' 16 12 ∧
    t.decRsv = s.din.extractLsb' 8 8 ∧ t.decLen = s.din.extractLsb' 0 8) ∧
  ∀ (mt : MessageType) (pbf : BoundaryFlag) (cmd : CommandId) (len : Byte) (s : State),
    ∃ t u, exec (.hdrEnc mt pbf cmd len) s = .next t ∧ exec (.hdrDec 4) { t with din := t.hdrOut } = .next u ∧
      u.lastCode = 0 ∧ u.decMt = mt ∧ u.decPbf = pbf ∧ u.decCmd = cmd ∧ u.decLen = len ∧ u.decRsv = 0

/-! ### Segmenter (41_segmenter.md) -/

/-- R121: SET_MAXCHUNK with a legal n completes in every state and writes only `SEG_MAXCHUNK` and LAST_CODE; n = 0 or
above `MAX_CHUNK_LIMIT` raises ARGUMENT_ERROR; its word decodes to it, and a nonzero bit of [27:9] is illegal. -/
def Obligations.SetMaxchunkCompletes : Prop :=
  ∀ (n : BitVec 9) (s : State),
    (1 ≤ n.toNat → n.toNat ≤ Config.params.maxChunkLimit →
      exec (.setMaxchunk n) s = .next { s with segMaxChunk := n.setWidth 8, lastCode := 0 }) ∧
    (n = 0 ∨ Config.params.maxChunkLimit < n.toNat → exec (.setMaxchunk n) s = .next { s with lastCode := 6 }) ∧
    assemble (Instr.setMaxchunk n).toSource = some (0x3#4 ++ 0#19 ++ n) ∧
    decode (0x3#4 ++ 0#19 ++ n) = .ok (.setMaxchunk n) ∧
    ∀ r : BitVec 19, r ≠ 0 → execWord (0x3#4 ++ r ++ n) s = .next { s with lastCode := 7 }

/-- R123: SEG_START with L at most `SEG_CAPACITY` completes in every state, latches the message and `SEG_MAXCHUNK`, opens
it ACTIVE and clears `SEG_ERR`; a larger L raises ARGUMENT_ERROR and leaves the Segmenter; its word decodes to it, and a
nonzero bit 24 or bit of [11:10] is illegal. -/
def Obligations.SegStartCompletes : Prop :=
  ∀ (mt : MessageType) (cmd : CommandId) (len : BitVec 10) (s : State),
    (len.toNat ≤ Config.params.segCapacity → exec (.segStart mt cmd len) s = .next { s with
      segMt := mt, segCmd := cmd, segLen := len, segOff := 0, segNframes := 0, segChunk := s.segMaxChunk,
      segState := .active, segErr := 0, lastCode := 0 }) ∧
    (Config.params.segCapacity < len.toNat → exec (.segStart mt cmd len) s = .next { s with lastCode := 6 }) ∧
    assemble (Instr.segStart mt cmd len).toSource = some (0x4#4 ++ mt ++ 0#1 ++ cmd ++ 0#2 ++ len) ∧
    decode (0x4#4 ++ mt ++ 0#1 ++ cmd ++ 0#2 ++ len) = .ok (.segStart mt cmd len) ∧
    ∀ (r : BitVec 1) (r' : BitVec 2), r ≠ 0 ∨ r' ≠ 0 →
      execWord (0x4#4 ++ mt ++ r ++ cmd ++ r' ++ len) s = .next { s with lastCode := 7 }

/-- R125: in ACTIVE, with every byte of the chunk defined, SEG_NEXT completes: the header and the chunk of
n = min(SEG_CHUNK, SEG_LEN − SEG_OFF) bytes are in `FRAME_OUT`, its other cells and everything else unchanged but
`FRAME_OUT_LEN`, `SEG_OFF`, `SEG_NFRAMES`, LAST_CODE and, after the last chunk, DONE. With an undef byte in the chunk it
is the model fault UndefinedRead, which writes only `faulted`; outside ACTIVE it raises SEQUENCE_ERROR and changes only
LAST_CODE. Its word decodes to it, and any other word of opcode 0x5 is illegal. -/
def Obligations.SegNextEmitsTheNextFrame : Prop :=
  ∀ (s : State) (n : Nat) (last : Bool) (pbf : BoundaryFlag),
    n = min s.segChunk.toNat (s.segLen.toNat - s.segOff.toNat) →
    (last = true ↔ s.segOff.toNat + n = s.segLen.toNat) →
    pbf = (if last then Config.params.pbfLast else 1 - Config.params.pbfLast) →
    (s.segState = .active → (∀ k, k < n → (s.cell .segBuf (s.segOff.toNat + k)).isSome) →
      ∃ out : Memory,
        exec .segNext s = .next { s with
          frameOut := out, frameOutLen := .ofNat 9 (4 + n), segOff := .ofNat 10 (s.segOff.toNat + n),
          segNframes := .ofNat 10 (s.segNframes.toNat + 1), segState := if last then .done else .active,
          lastCode := 0 } ∧
        ∀ j, out.read j =
          if j < 4 then
            [s.segMt ++ pbf ++ s.segCmd.extractLsb' 8 4, s.segCmd.extractLsb' 0 8, 0#8, BitVec.ofNat 8 n][j]?
          else if j < 4 + n then s.cell .segBuf (s.segOff.toNat + (j - 4))
          else s.cell .frameOut j) ∧
    (s.segState = .active → (∃ k, k < n ∧ s.cell .segBuf (s.segOff.toNat + k) = none) →
      exec .segNext s = .fault (.undefinedRead { s with faulted := some .undefinedRead })) ∧
    (s.segState ≠ .active → exec .segNext s = .next { s with lastCode := 5 }) ∧
    assemble .segNext = some (0x5#4 ++ 0#28) ∧ decode (0x5#4 ++ 0#28) = .ok .segNext ∧
    ∀ r : BitVec 28, r ≠ 0 → execWord (0x5#4 ++ r) s = .next { s with lastCode := 7 }

/-- R127: SEG_FAIL after a frame was emitted, in ACTIVE or DONE, completes with the Segmenter in ERROR and `SEG_ERR` = 4;
otherwise it raises SEQUENCE_ERROR; nothing else changes; its word decodes to it, and any other word of opcode 0x6 is
illegal; no command but SEG_START leaves ERROR. -/
def Obligations.SegFailCompletes : Prop :=
  ∀ s : State,
    (s.segState = .active ∨ s.segState = .done → s.segNframes ≠ 0 →
      exec .segFail s = .next { s with segState := .error, segErr := 4, lastCode := 0 }) ∧
    (s.segState = .idle ∨ s.segState = .error ∨ s.segNframes = 0 →
      exec .segFail s = .next { s with lastCode := 5 }) ∧
    assemble .segFail = some (0x6#4 ++ 0#28) ∧ decode (0x6#4 ++ 0#28) = .ok .segFail ∧
    (∀ r : BitVec 28, r ≠ 0 → execWord (0x6#4 ++ r) s = .next { s with lastCode := 7 }) ∧
    ∀ (i : Instr) (t : State), s.segState = .error → exec i s = .next t → t.segState ≠ .error →
      ∃ mt cmd len, i = .segStart mt cmd len

/-- R120: the chunks of a payload are K = max(1, ceil(L / M)) in number, their concatenation is the payload, all but the
last have exactly M bytes and are tagged NOT_LAST, and the last has L − (K−1)·M bytes, is tagged COMPLETE_OR_LAST and is
empty only when L = 0. -/
def Obligations.ChunksPartitionThePayload : Prop :=
  ∀ (payload : List Byte) (m : Nat), 1 ≤ m → m ≤ 251 →
    let chunks := segment Config.params payload m
    let count := chunkCount payload.length m
    chunks.length = count ∧ 1 ≤ count ∧
    payload.length ≤ count * m ∧ (count - 1) * m ≤ payload.length ∧
    (0 < payload.length → (count - 1) * m < payload.length) ∧
    (chunks.map Prod.fst).flatten = payload ∧
    (∀ k, k + 1 < count → ∃ c, chunks[k]? = some (c, Config.params.pbfNotLast) ∧ c.length = m) ∧
    ∃ c, chunks[count - 1]? = some (c, Config.params.pbfLast) ∧ c.length = payload.length - (count - 1) * m ∧
      (c = [] ↔ payload = [])

/-- R126, R124, R125: from SEG_START with length L and chunk size M, the first K SEG_NEXT commands return OK, the k-th
leaving in `FRAME_OUT` the frame of chunk k−1 of R120's segmentation with its boundary_flag and the Segmenter DONE
exactly at k = K, and the next SEG_NEXT returns SEQUENCE_ERROR. -/
def Obligations.SegmenterEmitsTheSegmentation : Prop :=
  ∀ (s : State) (mt : MessageType) (cmd : CommandId) (payload : List Byte) (len : BitVec 10),
    payload.length = len.toNat → len.toNat ≤ Config.params.segCapacity → 1 ≤ s.segMaxChunk.toNat →
    s.segBuf.readRange 0 payload.length = some payload →
    let m := s.segMaxChunk.toNat
    let count := chunkCount payload.length m
    (∀ k, 1 ≤ k → k ≤ count → ∃ t,
      execAll (.segStart mt cmd len :: List.replicate k .segNext) s = .next t ∧ t.lastCode = 0 ∧
      t.output = some (outboundFrame mt cmd (chunkAt payload m (k - 1)) (flagAt Config.params payload.length m (k - 1))) ∧
      t.segNframes.toNat = k ∧ (t.segState = if k = count then .done else .active)) ∧
    ∃ t, execAll (.segStart mt cmd len :: List.replicate (count + 1) .segNext) s = .next t ∧ t.lastCode = 5

/-- R129: SEG_NEXT reads no byte of `SEG_BUF` below `SEG_OFF`: a host that changes only such bytes changes nothing of
what SEG_NEXT does. -/
def Obligations.EmittedBytesNoLongerMatter : Prop :=
  ∀ (s t : State) (m : Memory), (∀ j, s.segOff.toNat ≤ j → m.read j = s.cell .segBuf j) →
    exec .segNext s = .next t → exec .segNext { s with segBuf := m } = .next { t with segBuf := m }

/-! ### Reassembler (42_reassembler.md) -/

/-- R141: RSM_START completes in every state with the buffer open and empty, the expected command_id latched and the
error fields cleared; `RSM_BUF` and everything else is unchanged; its word decodes to it, and a nonzero bit of [27:24]
or [11:0] is illegal. -/
def Obligations.RsmStartCompletes : Prop :=
  ∀ (cmd : CommandId) (s : State),
    exec (.rsmStart cmd) s = .next { s with
      rsmCmd := cmd, rsmLen := 0, rsmNframes := 0, rsmState := .collecting, rsmErr := 0, rsmLimitCause := 0,
      lastCode := 0 } ∧
    assemble (Instr.rsmStart cmd).toSource = some (0x7#4 ++ 0#4 ++ cmd ++ 0#12) ∧
    decode (0x7#4 ++ 0#4 ++ cmd ++ 0#12) = .ok (.rsmStart cmd) ∧
    ∀ (r : BitVec 4) (r' : BitVec 12), r ≠ 0 ∨ r' ≠ 0 →
      execWord (0x7#4 ++ r ++ cmd ++ r') s = .next { s with lastCode := 7 }

/-- R143, R146: a frame that passes every check, with its payload defined and the size and frame limits kept, is
consumed: RSM_PUSH completes, its payload follows the bytes already in `RSM_BUF` and no other cell of `RSM_BUF` changes,
`RSM_LEN` and `RSM_NFRAMES` advance, and a LAST frame seals. -/
def Obligations.RsmPushConsumesAFrame : Prop :=
  ∀ (s : State) (n : BitVec 9) (pbf : BoundaryFlag) (rsv len : Byte), s.accepts n pbf rsv len →
    s.rsmLen.toNat + len.toNat ≤ Config.params.maxReassembledSize →
    pbf = Config.params.pbfLast ∨ s.rsmNframes.toNat + 1 ≤ Config.params.maxFrames →
    (∀ k, k < len.toNat → (s.cell .frameIn (8 + k)).isSome) →
    ∃ buf : Memory,
      exec (.rsmPush n) s = .next { s with
        rsmBuf := buf, rsmLen := .ofNat 10 (s.rsmLen.toNat + len.toNat),
        rsmNframes := .ofNat 4 (s.rsmNframes.toNat + 1),
        rsmState := if pbf = Config.params.pbfLast then .sealed else .collecting, lastCode := 0 } ∧
      ∀ j, buf.read j =
        if s.rsmLen.toNat ≤ j ∧ j < s.rsmLen.toNat + len.toNat then s.cell .frameIn (8 + (j - s.rsmLen.toNat))
        else s.cell .rsmBuf j

/-- R143, R163: outside COLLECTING RSM_PUSH raises SEQUENCE_ERROR, and in COLLECTING with n above `FRAME_IN_CAPACITY`
ARGUMENT_ERROR, changing only LAST_CODE either way. -/
def Obligations.RsmPushOutOfSequenceOrRange : Prop :=
  ∀ (n : BitVec 9) (s : State),
    (s.rsmState ≠ .collecting → exec (.rsmPush n) s = .next { s with lastCode := 5 }) ∧
    (s.rsmState = .collecting → Config.params.frameInCapacity < n.toNat →
      exec (.rsmPush n) s = .next { s with lastCode := 6 })

/-- R144: in COLLECTING, a frame of a legal byte count with its header present whose command_id is not the expected one
or whose message_type is not RESPONSE, compared on the full fields, fails with PROTOCOL_MISMATCH, whatever the payload;
nothing is counted or appended. The minimum-length check comes first: a shorter frame fails with FORMAT_ERROR. -/
def Obligations.ProtocolMismatchFails : Prop :=
  ∀ (s : State) (n : BitVec 9) (b0 b1 b2 b3 : Byte), s.rsmState = .collecting →
    n.toNat ≤ Config.params.frameInCapacity → s.headerIs b0 b1 b2 b3 →
    (b0.extractLsb' 0 4 ++ b1 : BitVec 12) ≠ s.rsmCmd ∨ b0.extractLsb' 5 3 ≠ Config.params.mtResponse →
    (Config.params.minInbound ≤ n.toNat →
      exec (.rsmPush n) s = .next { s with rsmState := .error, rsmErr := 2, rsmLimitCause := 0, lastCode := 2 }) ∧
    (n.toNat < Config.params.minInbound →
      exec (.rsmPush n) s = .next { s with rsmState := .error, rsmErr := 1, rsmLimitCause := 0, lastCode := 1 })

/-- R147: in COLLECTING, (a) a frame shorter than `MIN_INBOUND` fails with FORMAT_ERROR whatever it holds, and a frame
that passed the protocol check fails with FORMAT_ERROR (b) when its length field is above `MAX_CHUNK_LIMIT` and (c) when
it is shorter than its header claims; nothing is appended or counted and `RSM_LIMIT_CAUSE` is 0. -/
def Obligations.MalformedFramesFail : Prop :=
  ∀ (s : State) (n : BitVec 9), s.rsmState = .collecting → n.toNat ≤ Config.params.frameInCapacity →
    (n.toNat < Config.params.minInbound →
      exec (.rsmPush n) s = .next { s with rsmState := .error, rsmErr := 1, rsmLimitCause := 0, lastCode := 1 }) ∧
    ∀ (pbf : BoundaryFlag) (rsv len : Byte), Config.params.minInbound ≤ n.toNat →
      s.headerIs (acceptedByte0 pbf s.rsmCmd) (s.rsmCmd.extractLsb' 0 8) rsv len →
      Config.params.maxChunkLimit < len.toNat ∨ n.toNat < Config.params.inPayOff + len.toNat →
      exec (.rsmPush n) s = .next { s with rsmState := .error, rsmErr := 1, rsmLimitCause := 0, lastCode := 1 }

/-- R145: a frame that passed the checks before and would bring the size above `MAX_REASSEMBLED_SIZE` fails with
LIMIT_EXCEEDED and cause 2: nothing is appended and `RSM_LEN` is unchanged, but the frame is counted; and a LAST
frame that brings it to exactly that size is accepted and seals. -/
def Obligations.SizeLimitFails : Prop :=
  ∀ (s : State) (n : BitVec 9) (pbf : BoundaryFlag) (rsv len : Byte), s.accepts n pbf rsv len →
    (Config.params.maxReassembledSize < s.rsmLen.toNat + len.toNat →
      exec (.rsmPush n) s = .next { s with
        rsmNframes := .ofNat 4 (s.rsmNframes.toNat + 1), rsmState := .error, rsmErr := 3, rsmLimitCause := 2,
        lastCode := 3 }) ∧
    (s.rsmLen.toNat + len.toNat = Config.params.maxReassembledSize → pbf = Config.params.pbfLast →
      (∀ k, k < len.toNat → (s.cell .frameIn (8 + k)).isSome) →
      ∃ t, exec (.rsmPush n) s = .next t ∧ t.lastCode = 0 ∧ t.rsmState = .sealed ∧
        t.rsmLen.toNat = Config.params.maxReassembledSize)

/-- R146, at any parameters (R6): once a frame's payload is appended, (a) a LAST frame seals, (b) a NOT_LAST frame that
brings the count above `MAX_FRAMES` fails with LIMIT_EXCEEDED and cause 1 with its payload appended and counted, and (c)
with `LAST_BEATS_LIMIT` false any such frame fails whatever its flag; any other frame leaves the buffer COLLECTING. -/
def Obligations.SealingAndFrameLimit : Prop :=
  ∀ (p : Params) (s : State) (h : Header) (n : Nat) (payload : List Byte),
    h.cmd = s.rsmCmd → h.mt = p.mtResponse → h.len.toNat ≤ p.maxChunkLimit → p.inPayOff + h.len.toNat ≤ n →
    s.rsmLen.toNat + h.len.toNat ≤ p.maxReassembledSize → s.inboundPayload p h.len.toNat = some payload →
    let count := s.rsmNframes.toNat + 1
    let taken := { s with
      rsmNframes := .ofNat 4 count, rsmLen := .ofNat 10 (s.rsmLen.toNat + h.len.toNat),
      rsmBuf := s.rsmBuf.writeRange s.rsmLen.toNat payload }
    let failed := { taken with rsmState := .error, rsmErr := 3, rsmLimitCause := 1, lastCode := 3 }
    (h.pbf = p.pbfLast → p.lastBeatsLimit = true ∨ count ≤ p.maxFrames →
      consumeFrame p n h s = .next { taken with rsmState := .sealed, lastCode := 0 }) ∧
    (h.pbf ≠ p.pbfLast → p.maxFrames < count → consumeFrame p n h s = .next failed) ∧
    (p.lastBeatsLimit = false → p.maxFrames < count → consumeFrame p n h s = .next failed) ∧
    (h.pbf ≠ p.pbfLast → count ≤ p.maxFrames → consumeFrame p n h s = .next { taken with lastCode := 0 })

/-- R143, R167: RSM_PUSH that reads an undef header byte, or an undef payload byte of a frame that passed every check up
to the size limit, is the model fault UndefinedRead, which sets `faulted` and writes nothing else. -/
def Obligations.RsmPushStopsOnUndefinedBytes : Prop :=
  ∀ (s : State) (n : BitVec 9),
    (s.rsmState = .collecting → n.toNat ≤ Config.params.frameInCapacity → Config.params.minInbound ≤ n.toNat →
      (∃ k, k < 4 ∧ s.cell .frameIn (4 + k) = none) →
      exec (.rsmPush n) s = .fault (.undefinedRead { s with faulted := some .undefinedRead })) ∧
    ∀ (pbf : BoundaryFlag) (rsv len : Byte), s.accepts n pbf rsv len →
      s.rsmLen.toNat + len.toNat ≤ Config.params.maxReassembledSize →
      (∃ k, k < len.toNat ∧ s.cell .frameIn (8 + k) = none) →
      exec (.rsmPush n) s = .fault (.undefinedRead { s with faulted := some .undefinedRead })

/-- R148: RSM_PUSH reads `FRAME_IN[4..8+len)` and nothing else of `FRAME_IN`: bytes outside that range, defined or not,
cannot change the outcome, and the reserved header byte `FRAME_IN[6]`, once defined, is not checked. -/
def Obligations.PushReadsOnlyHeaderAndPayload : Prop :=
  ∀ (n : BitVec 9) (s t : State) (m : Memory),
    (∀ j, 4 ≤ j → j < 8 → m.read j = s.cell .frameIn j) →
    (∀ len, s.cell .frameIn 7 = some len → ∀ j, 8 ≤ j → j < 8 + len.toNat → m.read j = s.cell .frameIn j) →
    exec (.rsmPush n) s = .next t →
    exec (.rsmPush n) { s with frameIn := m } = .next { t with frameIn := m } ∧
    ∀ v, (s.cell .frameIn 6).isSome →
      exec (.rsmPush n) { s with frameIn := s.frameIn.write 6 v } = .next { t with frameIn := s.frameIn.write 6 v }

/-- R140: pushing one inbound frame does to the Reassembler what consuming it does to the abstract reassembly it
represents. -/
def Obligations.PushRefinesReassembly : Prop :=
  ∀ (s : State) (cmd : CommandId) (r : Reassembly) (frame : List Byte), Inv s → s.represents cmd r →
    frame.length ≤ Config.params.frameInCapacity →
    ∃ t, pushFrame frame s = .next t ∧ t.represents cmd (r.absorb Config.params cmd frame)

/-- R140, R141, R143: RSM_START and then any sequence of inbound frames pushed in arrival order leave the Reassembler
with exactly the abstract reassembly of those frames: their concatenation once a LAST frame is accepted, or the error of
the first frame that fails a check. -/
def Obligations.ReassemblerComputesReassembly : Prop :=
  ∀ (s : State) (cmd : CommandId) (frames : List (List Byte)), Inv s →
    (∀ f ∈ frames, f.length ≤ Config.params.frameInCapacity) →
    ∃ t u, exec (.rsmStart cmd) s = .next t ∧ pushAll frames t = .next u ∧
      u.represents cmd (reassemble Config.params cmd frames)

/-- R150: for any payload of length L in [0, 700] and any chunk size M whose frames are at most `MAX_FRAMES` + 1 in
number, segmenting with message_type RESPONSE and pushing every frame, wrapped in any 4 bytes before it and at most one
byte after it, returns OK at every push, seals at the last and not before, and leaves the payload as the result. At any
well-formed parameters the abstract reassembly of the wrapped frames is the payload, with `MAX_FRAMES` + 1 frames allowed
only when `LAST_BEATS_LIMIT` holds. -/
def Obligations.RoundTripReturnsThePayload : Prop :=
  (∀ (s : State) (n : BitVec 9) (cmd : CommandId) (payload : List Byte) (len : BitVec 10)
    (wraps : List (List Byte × List Byte)),
    1 ≤ n.toNat → n.toNat ≤ Config.params.maxChunkLimit →
    payload.length = len.toNat → len.toNat ≤ Config.params.segCapacity →
    s.segBuf.readRange 0 payload.length = some payload →
    wraps.length = chunkCount payload.length n.toNat → wraps.length ≤ Config.params.maxFrames + 1 →
    (∀ w ∈ wraps, w.1.length = 4 ∧ w.2.length ≤ 1) →
    ∃ start, execAll [.setMaxchunk n, .segStart Config.params.mtResponse cmd len, .rsmStart cmd] s = .next start ∧
      ∀ k, k ≤ wraps.length → ∃ t, relayAll (wraps.take k) start = .next t ∧ t.lastCode = 0 ∧
        (k < wraps.length → t.rsmState = .collecting) ∧
        (k = wraps.length → t.rsmState = .sealed ∧ t.result = some payload ∧ t.rsmLen = len)) ∧
  ∀ (p : Params) (m : Nat) (cmd : CommandId) (payload : List Byte) (wraps : List (List Byte × List Byte)),
    p.wellFormed = true → 1 ≤ m → m ≤ p.maxChunkLimit → payload.length ≤ p.maxReassembledSize →
    wraps.length = chunkCount payload.length m →
    wraps.length ≤ (if p.lastBeatsLimit then p.maxFrames + 1 else p.maxFrames) →
    (∀ w ∈ wraps, w.1.length = p.inHdrOff) →
    reassemble p cmd
      (List.zipWith (fun w c => w.1 ++ outboundFrame p.mtResponse cmd c.1 c.2 ++ w.2) wraps (segment p payload m)) =
      .sealed payload

/-! ### Status codes, errors, faults (60_exceptions.md) -/

/-- R169, R160: every command word, legal or illegal, ends with exactly one status code that is written to LAST_CODE
(never TRANSPORT_ERROR, never 8 to 15), or is SEG_NEXT or RSM_PUSH ending in the model fault UndefinedRead with only
`faulted` written; nothing else stops the block. -/
def Obligations.EveryCommandWordCompletes : Prop :=
  ∀ (w : Word) (s : State),
    (∃ t c, execWord w s = .next t ∧ c ≠ Code.transportError ∧ t.lastCode = c.bits) ∨
    ((decode w = .ok .segNext ∨ ∃ n, decode w = .ok (.rsmPush n)) ∧
      execWord w s = .fault (.undefinedRead { s with faulted := some .undefinedRead }))

/-- R163: every raise is precise. ILLEGAL_COMMAND, SEQUENCE_ERROR and ARGUMENT_ERROR of any command and FORMAT_ERROR of
HDR_DEC change only LAST_CODE; FORMAT_ERROR and PROTOCOL_MISMATCH of RSM_PUSH change only what `rsmFail` writes;
LIMIT_EXCEEDED, which only RSM_PUSH raises, also counts the frame, and nothing else where the size limit is passed (cause
2); where the frame limit is passed (cause 1) the frame's payload is appended to `RSM_BUF` and counted in `RSM_LEN` too. -/
def Obligations.RaisesArePrecise : Prop :=
  (∀ (w : Word) (s : State) (e : DecodeError), decode w = .error e →
    execWord w s = .next { s with lastCode := 7 }) ∧
  ∀ (i : Instr) (s t : State), exec i s = .next t →
    (t.lastCode = 5 ∨ t.lastCode = 6 → t = { s with lastCode := t.lastCode }) ∧
    (∀ n, i = .hdrDec n → t.lastCode = 1 → t = { s with lastCode := 1 }) ∧
    (∀ n, i = .rsmPush n → t.lastCode = 1 ∨ t.lastCode = 2 →
      t = { s with rsmState := .error, rsmErr := t.lastCode, rsmLimitCause := 0, lastCode := t.lastCode }) ∧
    (t.lastCode = 3 → ∃ n len, i = .rsmPush n ∧ s.cell .frameIn 7 = some len ∧
      (Config.params.maxReassembledSize < s.rsmLen.toNat + len.toNat ∧ t = { s with
          rsmNframes := .ofNat 4 (s.rsmNframes.toNat + 1), rsmState := .error, rsmErr := 3, rsmLimitCause := 2,
          lastCode := 3 } ∨
        Config.params.maxFrames < s.rsmNframes.toNat + 1 ∧
        ∃ payload, s.inboundPayload Config.params len.toNat = some payload ∧ t = { s with
          rsmNframes := .ofNat 4 (s.rsmNframes.toNat + 1), rsmLen := .ofNat 10 (s.rsmLen.toNat + len.toNat),
          rsmBuf := s.rsmBuf.writeRange s.rsmLen.toNat payload, rsmState := .error, rsmErr := 3, rsmLimitCause := 1,
          lastCode := 3 }))

/-- R164: where several errors apply to a RSM_PUSH word (the only command more than one check can fail), the first in the
rule's order is the one reported: ILLEGAL_COMMAND, SEQUENCE_ERROR, ARGUMENT_ERROR, FORMAT_ERROR (n < 8),
PROTOCOL_MISMATCH, FORMAT_ERROR (length or truncation), LIMIT_EXCEEDED (size), LIMIT_EXCEEDED (frame count), and OK only
where none applies. For the other commands an illegal word reports ILLEGAL_COMMAND whatever else would apply. -/
def Obligations.FirstErrorIsReported : Prop :=
  (∀ (w : Word) (s : State) (e : DecodeError), decode w = .error e →
    ∃ t, execWord w s = .next t ∧ t.lastCode = 7) ∧
  ∀ (s t : State) (w : Word) (b0 b1 b2 b3 : Byte), opField w = 8 → s.headerIs b0 b1 b2 b3 → execWord w s = .next t →
    let n := (w.extractLsb' 0 9).toNat
    t.lastCode =
      if w.extractLsb' 9 19 ≠ 0 then 7
      else if s.rsmState ≠ .collecting then 5
      else if Config.params.frameInCapacity < n then 6
      else if n < Config.params.minInbound then 1
      else if (b0.extractLsb' 0 4 ++ b1 : BitVec 12) ≠ s.rsmCmd ∨ b0.extractLsb' 5 3 ≠ Config.params.mtResponse then 2
      else if Config.params.maxChunkLimit < b3.toNat ∨ n < Config.params.inPayOff + b3.toNat then 1
      else if Config.params.maxReassembledSize < s.rsmLen.toNat + b3.toNat then 3
      else if b0.extractLsb' 4 1 ≠ Config.params.pbfLast ∧ Config.params.maxFrames < s.rsmNframes.toNat + 1 then 3
      else 0

/-- R166: a unit in ERROR answers SEQUENCE_ERROR to its own commands but its START (and SET_MAXCHUNK) and changes
nothing; and whatever happens in one step, it leaves ERROR or loses its first error code only through its own START
command, written to `CMD` while reset is released (for SEG_START with a length in range), or through the release of an
asserted reset. -/
def Obligations.ErrorStatesAreSticky : Prop :=
  (∀ s : State, s.segState = .error →
    exec .segNext s = .next { s with lastCode := 5 } ∧ exec .segFail s = .next { s with lastCode := 5 }) ∧
  (∀ (s : State) (n : BitVec 9), s.rsmState = .error → exec (.rsmPush n) s = .next { s with lastCode := 5 }) ∧
  (∀ (s : State) (n : BitVec 9), s.segState = .error → 1 ≤ n.toNat → n.toNat ≤ Config.params.maxChunkLimit →
    exec (.setMaxchunk n) s = .next { s with segMaxChunk := n.setWidth 8, lastCode := 0 }) ∧
  (∀ s t : State, step s = .next t → s.segState = .error → t.segState ≠ .error ∨ t.segErr ≠ s.segErr →
    ∃ rest, s.pending = .releaseReset :: rest ∧ s.resetIn = true ∨
      ∃ w mt cmd len, s.about (.wr32 0x0000 w) rest ∧ decode w = .ok (.segStart mt cmd len) ∧
        len.toNat ≤ Config.params.segCapacity) ∧
  ∀ s t : State, step s = .next t → s.rsmState = .error → t.rsmState ≠ .error ∨ t.rsmErr ≠ s.rsmErr →
    ∃ rest, s.pending = .releaseReset :: rest ∧ s.resetIn = true ∨
      ∃ w cmd, s.about (.wr32 0x0000 w) rest ∧ decode w = .ok (.rsmStart cmd)

/-! ### State and invariants (10_state.md, 70_reset_and_hazards.md) -/

/-- R41: the state after reset has every register at its listed value, both units IDLE, `SEG_MAXCHUNK` =
`MAX_CHUNK_RESET` and every buffer cell undef. -/
def Obligations.ResetValues : Prop :=
  (∀ r : Reg, State.reset.register r = if r = .segMaxChunk then BitVec.ofNat 32 Config.params.maxChunkReset else 0) ∧
  (∀ (b : Buf) (i : Nat), State.reset.cell b i = none) ∧
  State.reset.segState = .idle ∧ State.reset.rsmState = .idle ∧ State.reset.lastCode = 0 ∧ State.reset.segErr = 0 ∧
  State.reset.rsmErr = 0 ∧ State.reset.rsmLimitCause = 0 ∧ Config.params.maxChunkReset = 251

/-- The invariant holds at reset. -/
def Obligations.InvAtReset : Prop := Inv State.reset

/-- The invariant (canonical buffers inside their capacity; R33, R36's bound, R26, R27, R31, R32, R34, R12's bounds;
every byte of a frame and of an accumulated message defined) is kept by every step, from every state that has it. -/
def Obligations.StepKeepsInv : Prop := ∀ s t : State, Inv s → step s = .next t → Inv t

/-- R12: in a state that meets the invariant every counter is within its bound and no stored counter wraps: SEG_NEXT and
RSM_PUSH advance the counters by the exact natural-number sums. -/
def Obligations.CountersNeverWrap : Prop :=
  (∀ s : State, Inv s →
    s.segLen.toNat ≤ Config.params.segCapacity ∧ s.segOff.toNat ≤ Config.params.segCapacity ∧
    (s.segNframes.toNat ≤ Config.params.segCapacity ∨ s.segLen = 0 ∧ s.segNframes.toNat = 1) ∧
    s.rsmLen.toNat ≤ Config.params.maxReassembledSize ∧ s.rsmNframes.toNat ≤ Config.params.maxFrames + 1) ∧
  (∀ s t : State, Inv s → exec .segNext s = .next t → t.lastCode = 0 →
    t.segOff.toNat = s.segOff.toNat + min s.segChunk.toNat (s.segLen.toNat - s.segOff.toNat) ∧
    t.segNframes.toNat = s.segNframes.toNat + 1 ∧
    t.frameOutLen.toNat = 4 + min s.segChunk.toNat (s.segLen.toNat - s.segOff.toNat)) ∧
  ∀ (n : BitVec 9) (s t : State) (len : Byte), Inv s → s.cell .frameIn 7 = some len → exec (.rsmPush n) s = .next t →
    t.lastCode = 0 → t.rsmLen.toNat = s.rsmLen.toNat + len.toNat ∧ t.rsmNframes.toNat = s.rsmNframes.toNat + 1

/-- R24 to R32, R34, R35, R37: no command writes `DIN`, `SEG_BUF`, `FRAME_IN` or anything of the outside world; `HDR_OUT`
is written only by HDR_ENC, the DEC registers only by HDR_DEC, `SEG_MAXCHUNK` only by SET_MAXCHUNK, `SEG_CMD`, `SEG_MT`,
`SEG_LEN` and `SEG_CHUNK` only by SEG_START, `SEG_OFF` and `SEG_NFRAMES` only by SEG_START and SEG_NEXT, `SEG_STATE` only
by SEG_START, SEG_NEXT and SEG_FAIL, `SEG_ERR` only by SEG_START and SEG_FAIL, `FRAME_OUT` and `FRAME_OUT_LEN` only by
SEG_NEXT, `RSM_CMD` only by RSM_START, `RSM_LEN`, `RSM_NFRAMES`, `RSM_STATE`, `RSM_ERR` and `RSM_LIMIT_CAUSE` only by
RSM_START and RSM_PUSH, and `RSM_BUF` only by RSM_PUSH. `LAST_CODE`, which every command writes, is not spoken of. -/
def Obligations.OnlyItsCommandsWriteARegister : Prop :=
  ∀ (i : Instr) (s t : State), exec i s = .next t →
    SameOutside s t ∧
    (t.hdrOut ≠ s.hdrOut → ∃ mt pbf cmd len, i = .hdrEnc mt pbf cmd len) ∧
    (¬(t.decMt = s.decMt ∧ t.decPbf = s.decPbf ∧ t.decCmd = s.decCmd ∧ t.decLen = s.decLen ∧ t.decRsv = s.decRsv) →
      ∃ n, i = .hdrDec n) ∧
    (t.segMaxChunk ≠ s.segMaxChunk → ∃ n, i = .setMaxchunk n) ∧
    (¬(t.segCmd = s.segCmd ∧ t.segMt = s.segMt ∧ t.segLen = s.segLen ∧ t.segChunk = s.segChunk) →
      ∃ mt cmd len, i = .segStart mt cmd len) ∧
    (t.segOff ≠ s.segOff ∨ t.segNframes ≠ s.segNframes → (∃ mt cmd len, i = .segStart mt cmd len) ∨ i = .segNext) ∧
    (t.segState ≠ s.segState → (∃ mt cmd len, i = .segStart mt cmd len) ∨ i = .segNext ∨ i = .segFail) ∧
    (t.segErr ≠ s.segErr → (∃ mt cmd len, i = .segStart mt cmd len) ∨ i = .segFail) ∧
    (t.frameOut ≠ s.frameOut ∨ t.frameOutLen ≠ s.frameOutLen → i = .segNext) ∧
    (t.rsmCmd ≠ s.rsmCmd → ∃ cmd, i = .rsmStart cmd) ∧
    (¬(t.rsmLen = s.rsmLen ∧ t.rsmNframes = s.rsmNframes ∧ t.rsmState = s.rsmState ∧ t.rsmErr = s.rsmErr ∧
        t.rsmLimitCause = s.rsmLimitCause) →
      (∃ cmd, i = .rsmStart cmd) ∨ ∃ n, i = .rsmPush n) ∧
    (t.rsmBuf ≠ s.rsmBuf → ∃ n, i = .rsmPush n)

/-- R65, R103, R105, R166: a Segmenter command changes nothing of the Reassembler and the HeaderCodec, a Reassembler
command nothing of the Segmenter and the HeaderCodec, and a HeaderCodec command nothing of the other two units. -/
def Obligations.UnitsChangeOnlyThemselves : Prop :=
  ∀ (i : Instr) (s t : State), exec i s = .next t →
    (i.isSegmenter = true → SameReassembler s t ∧ SameCodec s t) ∧
    (i.isReassembler = true → SameSegmenter s t ∧ SameCodec s t) ∧
    (i.isSegmenter = false → i.isReassembler = false → SameSegmenter s t ∧ SameReassembler s t)

/-- R65: neither unit reads the other's state: what a unit's command does to the unit, and its status code, are the same
in any two states that agree on the unit. -/
def Obligations.UnitsReadOnlyThemselves : Prop :=
  (∀ (i : Instr) (s s' t : State), i.isSegmenter = true → SameSegmenter s s' → exec i s = .next t →
    ∃ t', exec i s' = .next t' ∧ SameSegmenter t t' ∧ t'.lastCode = t.lastCode) ∧
  ∀ (i : Instr) (s s' t : State), i.isReassembler = true → SameReassembler s s' → exec i s = .next t →
    ∃ t', exec i s' = .next t' ∧ SameReassembler t t' ∧ t'.lastCode = t.lastCode

/-- R65: the host may interleave the two units' commands: a Segmenter command and a Reassembler command reach the same
state in either order, but for the LAST_CODE of the one issued last. -/
def Obligations.UnitsCommute : Prop :=
  ∀ (i j : Instr) (s a b : State), i.isSegmenter = true → j.isReassembler = true →
    exec i s = .next a → exec j a = .next b →
    ∃ c d, exec j s = .next c ∧ exec i c = .next d ∧ d = { b with lastCode := a.lastCode } ∧ c.lastCode = b.lastCode

/-- R38: a defined cell stays defined through every step but the release of reset. -/
def Obligations.DefinedCellsStayDefined : Prop :=
  ∀ s t : State, step s = .next t → (∀ rest, s.pending ≠ .releaseReset :: rest) →
    ∀ (b : Buf) (i : Nat), (s.cell b i).isSome → (t.cell b i).isSome

/-- R40, R36: in a state that meets the invariant, SEALED has a result of exactly `RSM_LEN` bytes, at most
`MAX_REASSEMBLED_SIZE`, whose bytes are the cells of `RSM_BUF` from 0; no other state has a result. -/
def Obligations.SealedHasAResult : Prop :=
  ∀ s : State, Inv s →
    (s.rsmState = .sealed → ∃ bytes, s.result = some bytes ∧ bytes.length = s.rsmLen.toNat ∧
      bytes.length ≤ Config.params.maxReassembledSize ∧ ∀ k, k < bytes.length → s.cell .rsmBuf k = bytes[k]?) ∧
    (s.rsmState ≠ .sealed → s.result = none)

/-- The reset input (R180, R182; how the pin and the events to come are modelled is log entry 5's choice): asserting it
changes nothing else, no access takes effect while it is asserted, and its release leaves exactly the state after reset,
from any state, with what the host has still to do kept. -/
def Obligations.ResetAbandonsEverything : Prop :=
  (∀ (s : State) (rest : List HostEvent), s.pending = .assertReset :: rest →
    step s = .next { s.taking rest with resetIn := true }) ∧
  (∀ (s : State) (e : HostEvent) (rest : List HostEvent), s.pending = e :: rest → s.resetIn = true →
    e ≠ .assertReset → e ≠ .releaseReset → step s = .next (s.taking rest)) ∧
  ∀ (s : State) (rest : List HostEvent), s.pending = .releaseReset :: rest → s.resetIn = true →
    step s = .next { State.reset with pending := rest, draws := s.draws }

/-! ### The host window (20_memory.md) -/

/-- R23, R24, R25: the fields of STATUS stand at their bits, SEG_STATE and RSM_STATE with their encodings (IDLE 0, ACTIVE
and COLLECTING 1, DONE and SEALED 2, ERROR 3), and [31:18] reads as zero. -/
def Obligations.StatusFieldPositions : Prop :=
  ∀ s : State,
    s.statusWord.extractLsb' 0 4 = s.lastCode ∧
    (s.segState = .idle → s.statusWord.extractLsb' 4 2 = 0) ∧ (s.segState = .active → s.statusWord.extractLsb' 4 2 = 1) ∧
    (s.segState = .done → s.statusWord.extractLsb' 4 2 = 2) ∧ (s.segState = .error → s.statusWord.extractLsb' 4 2 = 3) ∧
    (s.rsmState = .idle → s.statusWord.extractLsb' 6 2 = 0) ∧
    (s.rsmState = .collecting → s.statusWord.extractLsb' 6 2 = 1) ∧
    (s.rsmState = .sealed → s.statusWord.extractLsb' 6 2 = 2) ∧
    (s.rsmState = .error → s.statusWord.extractLsb' 6 2 = 3) ∧
    s.statusWord.extractLsb' 8 4 = s.segErr ∧ s.statusWord.extractLsb' 12 4 = s.rsmErr ∧
    s.statusWord.extractLsb' 16 2 = s.rsmLimitCause ∧ s.statusWord.extractLsb' 18 14 = 0

/-- R51, R54, R28 to R35: a 32-bit read of each register but `CMD` returns its value, the unused upper bits zero, and
changes nothing of the block. -/
def Obligations.HostReadsRegisters : Prop :=
  ∀ s : State,
    s.readsAs 0x0004 s.statusWord ∧ s.readsAs 0x0008 s.din ∧ s.readsAs 0x000C s.hdrOut ∧
    s.readsAs 0x0010 (0#29 ++ s.decMt) ∧ s.readsAs 0x0014 (0#31 ++ s.decPbf) ∧
    s.readsAs 0x0018 (0#20 ++ s.decCmd) ∧ s.readsAs 0x001C (0#24 ++ s.decLen) ∧
    s.readsAs 0x0020 (0#24 ++ s.decRsv) ∧ s.readsAs 0x0024 (0#24 ++ s.segMaxChunk) ∧
    s.readsAs 0x0028 (0#20 ++ s.segCmd) ∧ s.readsAs 0x002C (0#29 ++ s.segMt) ∧
    s.readsAs 0x0030 (0#22 ++ s.segLen) ∧ s.readsAs 0x0034 (0#22 ++ s.segOff) ∧
    s.readsAs 0x0038 (0#22 ++ s.segNframes) ∧ s.readsAs 0x003C (0#24 ++ s.segChunk) ∧
    s.readsAs 0x0040 (0#23 ++ s.frameOutLen) ∧ s.readsAs 0x0044 (0#20 ++ s.rsmCmd) ∧
    s.readsAs 0x0048 (0#22 ++ s.rsmLen) ∧ s.readsAs 0x004C (0#28 ++ s.rsmNframes)

/-- R51, R54, R56: a byte read inside a buffer's window returns the cell's byte where it is defined; where it is undef it
returns a draw, about which nothing is said (how a draw is modelled is log entry 3's choice); nothing of the block
changes either way. -/
def Obligations.HostReadsCells : Prop :=
  ∀ (s : State) (b : Buf) (i : Nat) (rest : List HostEvent), i < b.capacity Config.params →
    s.about (.rd8 (BitVec.ofNat 16 (b.base + i))) rest →
    (∀ v, s.cell b i = some v → step s = .next { s.taking rest with readData := some (0#24 ++ v) }) ∧
    (s.cell b i = none → ∃ v : Byte,
      step s = .next { s.taking rest with readData := some (0#24 ++ v), draws := s.draws + 1 })

/-- R51, R28, R37: a 32-bit write of `DIN` and a byte write of a cell of `SEG_BUF` or `FRAME_IN` take effect and change
nothing else of the block: every other cell reads as before. -/
def Obligations.HostWritesLand : Prop :=
  (∀ (s : State) (v : Word) (rest : List HostEvent), s.about (.wr32 0x0008 v) rest →
    step s = .next { s.taking rest with din := v }) ∧
  (∀ (s : State) (i : Nat) (v : Byte) (rest : List HostEvent), i < Config.params.segCapacity →
    s.about (.wr8 (BitVec.ofNat 16 (0x1000 + i)) v) rest →
    ∃ m : Memory, step s = .next { s.taking rest with segBuf := m } ∧
      ∀ j, m.read j = if j = i then some v else s.cell .segBuf j) ∧
  ∀ (s : State) (i : Nat) (v : Byte) (rest : List HostEvent), i < Config.params.frameInCapacity →
    s.about (.wr8 (BitVec.ofNat 16 (0x3000 + i)) v) rest →
    ∃ m : Memory, step s = .next { s.taking rest with frameIn := m } ∧
      ∀ j, m.read j = if j = i then some v else s.cell .frameIn j

/-- R52, R53: a read of `CMD`, a write to a read-only register or buffer, a 32-bit access at an address that is no
multiple of 4 or no register's, a byte access outside the buffers' windows, and an access of any other width are the
model fault HostBusMisuse, which sets `faulted` and changes nothing else. -/
def Obligations.HostMisuseFaults : Prop :=
  ∀ (s : State) (a : HostAddr) (w : Word) (v : Byte) (bits : Nat),
    s.misuses (.rd32 0x0000) ∧
    (a.toNat % 4 ≠ 0 ∨ 0x0050 ≤ a.toNat → s.misuses (.rd32 a) ∧ s.misuses (.wr32 a w)) ∧
    (0x0004 ≤ a.toNat → a ≠ 0x0008 → s.misuses (.wr32 a w)) ∧
    (a.toNat < 0x1000 ∨ 0x12BC ≤ a.toNat ∧ a.toNat < 0x2000 ∨ 0x20FF ≤ a.toNat ∧ a.toNat < 0x3000 ∨
      0x3108 ≤ a.toNat ∧ a.toNat < 0x4000 ∨ 0x42BC ≤ a.toNat → s.misuses (.rd8 a) ∧ s.misuses (.wr8 a v)) ∧
    (0x2000 ≤ a.toNat ∧ a.toNat < 0x20FF ∨ 0x4000 ≤ a.toNat ∧ a.toNat < 0x42BC → s.misuses (.wr8 a v)) ∧
    s.misuses (.otherWidth bits a)

/-- R87, R60: a FILL of `SEG_BUF` inside its window, one byte write after another, leaves exactly those bytes written. -/
def Obligations.FillWritesTheBytes : Prop :=
  ∀ (bytes : List Byte) (i : Nat) (s : State) (rest : List HostEvent), i + bytes.length ≤ Config.params.segCapacity →
    s.pending = fillEvents .segBuf i bytes ++ rest → s.resetIn = false → s.faulted = none →
    ∃ t, Sys2Proof.core.run bytes.length s = .next t ∧
      t = { s with segBuf := t.segBuf, pending := rest, readData := t.readData } ∧
      ∀ j, t.cell .segBuf j = if i ≤ j ∧ j < i + bytes.length then bytes[j - i]? else s.cell .segBuf j

/-! ### The state record (10_state.md section 7) -/

/-- R42: a state of the block is exactly the record. Two states whose buffers are in canonical form and inside their
capacity, and that stand for the same record, are the same block; and every record is that of such a state. -/
def Obligations.BlockIsTheRecord : Prop :=
  (∀ s t : State, BuffersOk s → BuffersOk t → s.record Config.params = t.record Config.params →
    s.toBlock = t.toBlock) ∧
  ∀ r : Record Config.params, ∃ s : State, BuffersOk s ∧ s.record Config.params = r

/-- R42: what stands beside the record (the reset input, the host actions to come, the datum read, the count of draws;
log entries 1, 2, 3 and 5) is no state of the block. What a command does to the block, and what any one host action does
to it while reset is released, is the same in any two states with the same block; and a command leaves it as it is. -/
def Obligations.OnlyTheRecordIsState : Prop :=
  (∀ (i : Instr) (s s' t : State), s.toBlock = s'.toBlock → exec i s = .next t →
    exec i s' = .next { s' with toBlock := t.toBlock }) ∧
  ∀ (e : HostEvent) (s s' t : State) (rest rest' : List HostEvent), s.toBlock = s'.toBlock →
    s.about e rest → s'.about e rest' → e ≠ .assertReset → e ≠ .releaseReset → step s = .next t →
    ∃ t', step s' = .next t' ∧ t'.toBlock = t.toBlock ∧
      (s.draws = s'.draws → t'.readData = t.readData ∧ t'.draws = t.draws)

/-- R42, R180: once `faulted` is set no step clears it but the release of an asserted reset (R180 makes it clear there; log
entry 6), and with reset released a faulted block answers its fault to every access, and when it is idle, changing
nothing. -/
def Obligations.FaultMarkIsNeverCleared : Prop :=
  ∀ (s : State) (f : ModelFault), s.faulted = some f →
    (∀ t, step s = .next t →
      t.faulted = some f ∨ ∃ rest, s.pending = .releaseReset :: rest ∧ s.resetIn = true) ∧
    (∀ (e : HostEvent) (rest : List HostEvent), s.pending = e :: rest → s.resetIn = false → e ≠ .assertReset →
      e ≠ .releaseReset → step s = .fault (f.stop (s.taking rest))) ∧
    (s.pending = [] → step s = .fault (f.stop s)) ∧
    ∀ rest, s.pending = .releaseReset :: rest → s.resetIn = true →
      step s = .next { State.reset with pending := rest, draws := s.draws }

/-! ### The parameters (00_scope.md) -/

/-- R6: the block built with any parameters p runs every command at p. A word written to `CMD` runs its command at p;
SET_MAXCHUNK, SEG_START and RSM_PUSH check their operands against p's `MAX_CHUNK_LIMIT`, `SEG_CAPACITY`,
`FRAME_IN_CAPACITY` and `MIN_INBOUND`; the frame that RSM_PUSH finds at p's `IN_HDR_OFF` is consumed at p, and so, with p's
`LAST_BEATS_LIMIT` false, any frame above p's `MAX_FRAMES` fails with cause 1; the release of reset gives `SEG_MAXCHUNK`
p's `MAX_CHUNK_RESET`; and at the values of R7 the block is `step`. -/
def Obligations.ParametersReachEveryCommand : Prop :=
  (∀ (p : Params) (s : State) (w : Word) (rest : List HostEvent), s.about (.wr32 0x0000 w) rest →
    (∀ i, decode w = .ok i → stepWith p s = execWith p i (s.taking rest)) ∧
    (∀ e, decode w = .error e → stepWith p s = .next { s.taking rest with lastCode := 7 })) ∧
  (∀ (p : Params) (s : State) (n : BitVec 9),
    execWith p (.setMaxchunk n) s =
      .next (if n = 0 ∨ p.maxChunkLimit < n.toNat then { s with lastCode := 6 }
        else { s with segMaxChunk := n.setWidth 8, lastCode := 0 })) ∧
  (∀ (p : Params) (s : State) (mt : MessageType) (cmd : CommandId) (len : BitVec 10),
    execWith p (.segStart mt cmd len) s =
      .next (if p.segCapacity < len.toNat then { s with lastCode := 6 }
        else { s with
          segMt := mt, segCmd := cmd, segLen := len, segOff := 0, segNframes := 0, segChunk := s.segMaxChunk,
          segState := .active, segErr := 0, lastCode := 0 })) ∧
  (∀ (p : Params) (s : State) (n : BitVec 9), s.rsmState = .collecting →
    (p.frameInCapacity < n.toNat → execWith p (.rsmPush n) s = .next { s with lastCode := 6 }) ∧
    (n.toNat ≤ p.frameInCapacity → n.toNat < p.minInbound →
      execWith p (.rsmPush n) s =
        .next { s with rsmState := .error, rsmErr := 1, rsmLimitCause := 0, lastCode := 1 }) ∧
    ∀ (bytes payload : List Byte) (h : Header), n.toNat ≤ p.frameInCapacity → p.minInbound ≤ n.toNat →
      s.inboundHeader p = some bytes → hdrDecode bytes = some h →
      execWith p (.rsmPush n) s = consumeFrame p n.toNat h s ∧
      (h.cmd = s.rsmCmd → h.mt = p.mtResponse → h.len.toNat ≤ p.maxChunkLimit →
        p.inPayOff + h.len.toNat ≤ n.toNat → s.rsmLen.toNat + h.len.toNat ≤ p.maxReassembledSize →
        s.inboundPayload p h.len.toNat = some payload → p.lastBeatsLimit = false →
        p.maxFrames < s.rsmNframes.toNat + 1 →
        execWith p (.rsmPush n) s = .next { s with
          rsmNframes := .ofNat 4 (s.rsmNframes.toNat + 1), rsmLen := .ofNat 10 (s.rsmLen.toNat + h.len.toNat),
          rsmBuf := s.rsmBuf.writeRange s.rsmLen.toNat payload, rsmState := .error, rsmErr := 3, rsmLimitCause := 1,
          lastCode := 3 })) ∧
  (∀ (p : Params) (s : State) (rest : List HostEvent), s.pending = .releaseReset :: rest → s.resetIn = true →
    stepWith p s = .next { State.resetWith p with pending := rest, draws := s.draws } ∧
    (State.resetWith p).segMaxChunk = .ofNat 8 p.maxChunkReset) ∧
  ∀ s : State, stepWith Config.params s = step s
end

