-- ==== Sys2Proof/Laws/Encoding.lean ====
section
/-! SUPPORT. The formats of R71 to R75 read back field by field: what each field of a formatted word is. -/

namespace Sys2Proof

/-- Concatenation as arithmetic: the left part is the more significant one. -/
theorem toNat_append_add {m n : Nat} (x : BitVec m) (y : BitVec n) : (x ++ y).toNat = x.toNat * 2 ^ n + y.toNat := by
  rw [BitVec.toNat_append, ← Nat.shiftLeft_add_eq_or_of_lt y.isLt, Nat.shiftLeft_eq]

/-- A field as arithmetic (R9). -/
theorem toNat_field {n : Nat} (w : BitVec n) (lo len : Nat) :
    (w.extractLsb' lo len).toNat = w.toNat / 2 ^ lo % 2 ^ len := by
  rw [BitVec.extractLsb'_toNat, Nat.shiftRight_eq_div_pow]

section FormatH
variable (op : BitVec 4) (mt : MessageType) (pbf : BoundaryFlag) (cmd : CommandId) (len : Byte)

theorem toNat_formatH : (formatH op mt pbf cmd len).toNat =
    ((((op.toNat * 2 ^ 3 + mt.toNat) * 2 ^ 1 + pbf.toNat) * 2 ^ 12 + cmd.toNat) * 2 ^ 8 + len.toNat) * 2 ^ 4 := by
  simp only [formatH, toNat_append_add, BitVec.toNat_ofNat]
  omega

@[simp] theorem opField_formatH : opField (formatH op mt pbf cmd len) = op := by
  apply BitVec.eq_of_toNat_eq
  rw [opField, toNat_field, toNat_formatH]
  omega

@[simp] theorem mtField_formatH : mtField (formatH op mt pbf cmd len) = mt := by
  apply BitVec.eq_of_toNat_eq
  rw [mtField, toNat_field, toNat_formatH]
  omega

@[simp] theorem pbfField_formatH : pbfField (formatH op mt pbf cmd len) = pbf := by
  apply BitVec.eq_of_toNat_eq
  rw [pbfField, toNat_field, toNat_formatH]
  omega

@[simp] theorem cmdField_formatH : cmdField (formatH op mt pbf cmd len) = cmd := by
  apply BitVec.eq_of_toNat_eq
  rw [cmdField, toNat_field, toNat_formatH]
  omega

@[simp] theorem lenField_formatH : lenField (formatH op mt pbf cmd len) = len := by
  apply BitVec.eq_of_toNat_eq
  rw [lenField, toNat_field, toNat_formatH]
  omega

end FormatH

section FormatS
variable (op : BitVec 4) (mt : MessageType) (cmd : CommandId) (len : BitVec 10)

theorem toNat_formatS : (formatS op mt cmd len).toNat =
    ((op.toNat * 2 ^ 3 + mt.toNat) * 2 ^ 13 + cmd.toNat) * 2 ^ 12 + len.toNat := by
  simp only [formatS, toNat_append_add, BitVec.toNat_ofNat]
  omega

@[simp] theorem opField_formatS : opField (formatS op mt cmd len) = op := by
  apply BitVec.eq_of_toNat_eq
  rw [opField, toNat_field, toNat_formatS]
  omega

@[simp] theorem mtField_formatS : mtField (formatS op mt cmd len) = mt := by
  apply BitVec.eq_of_toNat_eq
  rw [mtField, toNat_field, toNat_formatS]
  omega

@[simp] theorem cmdField_formatS : cmdField (formatS op mt cmd len) = cmd := by
  apply BitVec.eq_of_toNat_eq
  rw [cmdField, toNat_field, toNat_formatS]
  omega

@[simp] theorem segLenField_formatS : segLenField (formatS op mt cmd len) = len := by
  apply BitVec.eq_of_toNat_eq
  rw [segLenField, toNat_field, toNat_formatS]
  omega

end FormatS

section FormatC
variable (op : BitVec 4) (cmd : CommandId)

theorem toNat_formatC : (formatC op cmd).toNat = op.toNat * 2 ^ 28 + cmd.toNat * 2 ^ 12 := by
  simp only [formatC, toNat_append_add, BitVec.toNat_ofNat]
  omega

@[simp] theorem opField_formatC : opField (formatC op cmd) = op := by
  apply BitVec.eq_of_toNat_eq
  rw [opField, toNat_field, toNat_formatC]
  omega

@[simp] theorem cmdField_formatC : cmdField (formatC op cmd) = cmd := by
  apply BitVec.eq_of_toNat_eq
  rw [cmdField, toNat_field, toNat_formatC]
  omega

end FormatC

section FormatK
variable (op : BitVec 4) (n : BitVec 9)

theorem toNat_formatK : (formatK op n).toNat = op.toNat * 2 ^ 28 + n.toNat := by
  simp only [formatK, toNat_append_add, BitVec.toNat_ofNat]
  omega

@[simp] theorem opField_formatK : opField (formatK op n) = op := by
  apply BitVec.eq_of_toNat_eq
  rw [opField, toNat_field, toNat_formatK]
  omega

@[simp] theorem countField_formatK : countField (formatK op n) = n := by
  apply BitVec.eq_of_toNat_eq
  rw [countField, toNat_field, toNat_formatK]
  omega

end FormatK

/-- Format N is its opcode and nothing else (R71). -/
@[simp] theorem opField_formatN (op : BitVec 4) : opField (formatN op) = op := by
  apply BitVec.eq_of_toNat_eq
  simp only [opField, toNat_field, formatN, toNat_append_add, BitVec.toNat_ofNat]
  omega

/-! ### Reserved bits (R71 to R75) -/

/-- The mask of a format's reserved bits picks exactly the reserved bits: format H (R72). -/
theorem formatH_reserved (op : BitVec 4) (mt : MessageType) (pbf : BoundaryFlag) (cmd : CommandId) (len : Byte) :
    formatH op mt pbf cmd len &&& 0x0000000F#32 = 0#32 := by
  apply BitVec.eq_of_getLsbD_eq
  intro i hi
  simp only [formatH, BitVec.getLsbD_and, BitVec.getLsbD_append]
  interval_cases i <;> simp

/-- Format S (R73) has its reserved bits zero. -/
theorem formatS_reserved (op : BitVec 4) (mt : MessageType) (cmd : CommandId) (len : BitVec 10) :
    formatS op mt cmd len &&& 0x01000C00#32 = 0#32 := by
  apply BitVec.eq_of_getLsbD_eq
  intro i hi
  simp only [formatS, BitVec.getLsbD_and, BitVec.getLsbD_append]
  interval_cases i <;> simp

/-- Format C (R74) has its reserved bits zero. -/
theorem formatC_reserved (op : BitVec 4) (cmd : CommandId) : formatC op cmd &&& 0x0F000FFF#32 = 0#32 := by
  apply BitVec.eq_of_getLsbD_eq
  intro i hi
  simp only [formatC, BitVec.getLsbD_and, BitVec.getLsbD_append]
  interval_cases i <;> simp

/-- Format K (R75) has its reserved bits zero. -/
theorem formatK_reserved (op : BitVec 4) (n : BitVec 9) : formatK op n &&& 0x0FFFFE00#32 = 0#32 := by
  apply BitVec.eq_of_getLsbD_eq
  intro i hi
  simp only [formatK, BitVec.getLsbD_and, BitVec.getLsbD_append]
  interval_cases i <;> simp

end Sys2Proof
end

