-- ==== Sys2Proof/Laws/Header.lean ====
section
/-! SUPPORT. The header codec's formulas as bit fields (R57, R58, R80): the bytes of a header, the register that holds
four bytes, and the fields read back from bytes. -/

namespace Sys2Proof.Machine

/-- DOC's formula (R100) is the layout of R80: mt, pbf and the high 4 bits of cmd in byte 0, its low 8 bits in byte 1. -/
theorem hdrEncode_eq (mt : MessageType) (pbf : BoundaryFlag) (cmd : CommandId) (len : Byte) :
    hdrEncode mt pbf cmd len = [mt ++ pbf ++ cmd.extractLsb' 8 4, cmd.extractLsb' 0 8, 0#8, len] := by
  have byte0 : (mt.setWidth 8 <<< 5) ||| (pbf.setWidth 8 <<< 4) ||| ((cmd >>> 8).setWidth 8 &&& 0xF#8) =
      (mt ++ pbf ++ cmd.extractLsb' 8 4 : BitVec 8) := by
    apply BitVec.eq_of_getLsbD_eq
    intro i hi
    simp only [BitVec.getLsbD_or, BitVec.getLsbD_shiftLeft, BitVec.getLsbD_setWidth, BitVec.getLsbD_and,
      BitVec.getLsbD_ushiftRight, BitVec.getLsbD_append, BitVec.getLsbD_extractLsb']
    interval_cases i <;> simp
  have byte1 : (cmd &&& 0xFF#12).setWidth 8 = cmd.extractLsb' 0 8 := by
    apply BitVec.eq_of_getLsbD_eq
    intro i hi
    simp only [BitVec.getLsbD_setWidth, BitVec.getLsbD_and, BitVec.getLsbD_extractLsb']
    interval_cases i <;> simp
  rw [hdrEncode, byte0, byte1]

/-- The register of four bytes has byte 0 in [31:24] and byte 3 in [7:0] (R58). -/
theorem bytesRegister_eq (b0 b1 b2 b3 : Byte) : bytesRegister [b0, b1, b2, b3] = b0 ++ b1 ++ b2 ++ b3 := by
  apply BitVec.eq_of_getLsbD_eq
  intro i hi
  simp only [bytesRegister, BitVec.getLsbD_or, BitVec.getLsbD_shiftLeft, BitVec.getLsbD_setWidth, BitVec.getLsbD_append]
  interval_cases i <;> simp

/-- The fields read back from header bytes laid out as R80 says, with any reserved byte. -/
theorem hdrDecode_layout (mt : MessageType) (pbf : BoundaryFlag) (cmd : CommandId) (rsv len : Byte) (rest : List Byte) :
    hdrDecode ((mt ++ pbf ++ cmd.extractLsb' 8 4) :: cmd.extractLsb' 0 8 :: rsv :: len :: rest) =
      some ⟨mt, pbf, cmd, len, rsv⟩ := by
  simp only [hdrDecode, Option.some.injEq, Header.mk.injEq, and_true]
  refine ⟨?_, ?_, ?_⟩ <;>
  · apply BitVec.eq_of_getLsbD_eq
    intro i hi
    simp only [BitVec.getLsbD_append, BitVec.getLsbD_extractLsb']
    interval_cases i <;> simp

end Sys2Proof.Machine
end

