-- ==== Sys2Proof/Laws/Memory.lean ====
section
/-! SUPPORT. The laws of MemRead and MemWrite (R11, R38): a read after a write, ranges, and that every operation keeps
the canonical form. -/

namespace Sys2Proof.Machine

/-! ### One cell -/

@[simp] theorem Memory.read_nil (i : Nat) : Memory.read [] i = none := rfl

theorem Memory.read_write (m : Memory) (i j : Nat) (v : Byte) :
    (m.write i v).read j = if i = j then some v else m.read j := by
  induction m with
  | nil => simp [Memory.write, Memory.read]
  | cons c rest ih =>
    obtain ⟨a, b⟩ := c
    simp only [Memory.write]
    split
    · rfl
    · split
      · next h => subst h; by_cases hj : i = j <;> simp [Memory.read, hj]
      · next hlt hne => by_cases hj : a = j <;> simp_all [Memory.read]

@[simp] theorem Memory.read_write_same (m : Memory) (i : Nat) (v : Byte) : (m.write i v).read i = some v := by
  simp [Memory.read_write]

theorem Memory.read_write_other (m : Memory) {i j : Nat} (v : Byte) (h : i ≠ j) : (m.write i v).read j = m.read j := by
  simp [Memory.read_write, h]

/-! ### Canonical form -/

theorem Memory.mem_write {m : Memory} {i : Nat} {v : Byte} {c : Host.Cell} (h : c ∈ m.write i v) :
    c = (i, v) ∨ c ∈ m := by
  induction m with
  | nil => exact .inl (by simpa [Memory.write] using h)
  | cons d rest ih =>
    obtain ⟨a, b⟩ := d
    simp only [Memory.write] at h
    split at h
    · simpa using h
    · split at h
      · rcases List.mem_cons.1 h with h | h
        · exact .inl h
        · exact .inr (List.mem_cons_of_mem _ h)
      · rcases List.mem_cons.1 h with h | h
        · exact .inr (h ▸ List.mem_cons_self)
        · exact (ih h).imp_right (List.mem_cons_of_mem _)

/-- Writing a cell keeps the canonical form. -/
theorem Memory.wf_write {m : Memory} (h : m.wf) (i : Nat) (v : Byte) : (m.write i v).wf := by
  induction m with
  | nil => simp [Memory.write]
  | cons c rest ih =>
    obtain ⟨a, b⟩ := c
    obtain ⟨hhead, htail⟩ := List.pairwise_cons.1 h
    simp only [Memory.write]
    split
    · next hlt =>
      refine List.pairwise_cons.2 ⟨fun d hd => ?_, h⟩
      rcases List.mem_cons.1 hd with rfl | hd
      · exact hlt
      · exact Nat.lt_trans hlt (hhead d hd)
    · split
      · next heq => subst heq; exact List.pairwise_cons.2 ⟨hhead, htail⟩
      · refine List.pairwise_cons.2 ⟨fun d hd => ?_, ih htail⟩
        rcases Memory.mem_write hd with rfl | hd
        · simp only; omega
        · exact hhead d hd

/-- Writing a range keeps the canonical form. -/
theorem Memory.wf_writeRange {m : Memory} (h : m.wf) (i : Nat) (bs : List Byte) : (m.writeRange i bs).wf := by
  induction bs generalizing m i with
  | nil => exact h
  | cons b bs ih => exact ih (Memory.wf_write h i b) (i + 1)

theorem Memory.read_none_of_lt {m : Memory} {i : Nat} (h : ∀ c ∈ m, i < c.1) : m.read i = none := by
  induction m with
  | nil => rfl
  | cons c rest ih =>
    have hc := h c List.mem_cons_self
    rw [Memory.read, if_neg (by omega), ih fun d hd => h d (List.mem_cons_of_mem _ hd)]

/-- Two canonical memories that read alike are equal data. -/
theorem Memory.eq_of_read {m n : Memory} (hm : m.wf) (hn : n.wf) (h : ∀ i, m.read i = n.read i) : m = n := by
  induction m generalizing n with
  | nil =>
    cases n with
    | nil => rfl
    | cons d _ => exact absurd (h d.1) (by simp [Memory.read])
  | cons c rest ih =>
    cases n with
    | nil => exact absurd (h c.1) (by simp [Memory.read])
    | cons d rest' =>
      obtain ⟨hc, hrest⟩ := List.pairwise_cons.1 hm
      obtain ⟨hd, hrest'⟩ := List.pairwise_cons.1 hn
      have hkey : c.1 = d.1 := by
        rcases Nat.lt_trichotomy c.1 d.1 with hlt | heq | hgt
        · have := h c.1
          rw [Memory.read, if_pos rfl, Memory.read, if_neg (by omega),
            Memory.read_none_of_lt fun e he => Nat.lt_trans hlt (hd e he)] at this
          cases this
        · exact heq
        · have := h d.1
          rw [Memory.read, if_neg (by omega), Memory.read_none_of_lt fun e he => Nat.lt_trans hgt (hc e he), Memory.read,
            if_pos rfl] at this
          cases this
      have hval : c.2 = d.2 := by
        have := h c.1
        rw [Memory.read, if_pos rfl, Memory.read, if_pos hkey.symm] at this
        exact Option.some.inj this
      have htail : rest = rest' := ih hrest hrest' fun i => by
        have := h i
        rw [Memory.read, Memory.read] at this
        by_cases hi : c.1 = i
        · subst hi
          rw [Memory.read_none_of_lt hc, Memory.read_none_of_lt fun e he => hkey ▸ hd e he]
        · rwa [if_neg hi, if_neg (hkey ▸ hi)] at this
      rw [htail, Prod.ext hkey hval]

/-! ### Ranges -/

/-- What a written range reads as: the bytes inside it, the old cells outside. -/
theorem Memory.read_writeRange (m : Memory) (i j : Nat) (bs : List Byte) :
    (m.writeRange i bs).read j = if i ≤ j ∧ j < i + bs.length then bs[j - i]? else m.read j := by
  induction bs generalizing m i with
  | nil => simp [Memory.writeRange, show ¬(i ≤ j ∧ j < i) by omega]
  | cons b bs ih =>
    rw [Memory.writeRange, ih, Memory.read_write, List.length_cons]
    rcases Nat.lt_trichotomy i j with h | h | h
    · obtain ⟨k, rfl⟩ : ∃ k, j = i + 1 + k := ⟨j - (i + 1), by omega⟩
      have hk : i + 1 + k - i = k + 1 := by omega
      simp only [show i + 1 + k - (i + 1) = k by omega, hk, List.getElem?_cons_succ]
      by_cases hin : k < bs.length
      · rw [if_pos (by omega), if_pos (by omega)]
      · rw [if_neg (by omega), if_neg (by omega), if_neg (by omega)]
    · subst h
      rw [if_neg (by omega), if_pos rfl, if_pos (by omega)]
      simp
    · rw [if_neg (by omega), if_neg (by omega), if_neg (by omega)]

/-- A cell of a written range. -/
theorem Memory.read_writeRange_in {m : Memory} {i k : Nat} {bs : List Byte} (h : k < bs.length) :
    (m.writeRange i bs).read (i + k) = bs[k]? := by
  rw [Memory.read_writeRange, if_pos (by omega), show i + k - i = k by omega]

/-- A cell outside a written range. -/
theorem Memory.read_writeRange_out {m : Memory} {i j : Nat} {bs : List Byte} (h : j < i ∨ i + bs.length ≤ j) :
    (m.writeRange i bs).read j = m.read j := by
  rw [Memory.read_writeRange, if_neg (by omega)]

/-- MemRead answers exactly when every cell of the range is defined, and then with the cells' bytes in order. -/
theorem Memory.readRange_eq_some (m : Memory) (i n : Nat) (bs : List Byte) :
    m.readRange i n = some bs ↔ bs.length = n ∧ ∀ k, k < n → m.read (i + k) = bs[k]? := by
  induction n generalizing i bs with
  | zero => cases bs <;> simp [Memory.readRange]
  | succ n ih =>
    rw [Memory.readRange]
    constructor
    · intro h
      split at h
      · next b bs' hb hbs =>
        obtain rfl := Option.some.inj h
        obtain ⟨hlen, hall⟩ := (ih _ _).1 hbs
        refine ⟨by simp [hlen], fun k hk => ?_⟩
        cases k with
        | zero => simpa using hb
        | succ k => rw [show i + (k + 1) = i + 1 + k by omega, hall k (by omega), List.getElem?_cons_succ]
      · cases h
    · rintro ⟨hlen, hall⟩
      cases bs with
      | nil => simp at hlen
      | cons b bs =>
        have hb : m.read i = some b := by simpa using hall 0 (by omega)
        have hbs : m.readRange (i + 1) n = some bs := (ih _ _).2 ⟨by simpa using hlen, fun k hk => by
          rw [show i + 1 + k = i + (k + 1) by omega, hall (k + 1) (by omega), List.getElem?_cons_succ]⟩
        rw [hb, hbs]

/-- MemRead fails exactly when some cell of the range is undef. -/
theorem Memory.readRange_eq_none (m : Memory) (i n : Nat) :
    m.readRange i n = none ↔ ∃ k, k < n ∧ m.read (i + k) = none := by
  induction n generalizing i with
  | zero => simp [Memory.readRange]
  | succ n ih =>
    rw [Memory.readRange]
    constructor
    · intro h
      split at h
      · cases h
      · next hnot =>
        cases hb : m.read i with
        | none => exact ⟨0, by omega, hb⟩
        | some b =>
          cases hbs : m.readRange (i + 1) n with
          | none =>
            obtain ⟨k, hk, hkn⟩ := (ih _).1 hbs
            exact ⟨k + 1, by omega, by rwa [show i + (k + 1) = i + 1 + k by omega]⟩
          | some bs => exact absurd hbs (hnot b bs hb)
    · rintro ⟨k, hk, hkn⟩
      split
      · next b bs hb hbs =>
        cases k with
        | zero => rw [Nat.add_zero, hb] at hkn; cases hkn
        | succ k =>
          rw [(ih _).2 ⟨k, by omega, by rwa [show i + 1 + k = i + (k + 1) by omega]⟩] at hbs
          cases hbs
      · rfl

theorem Memory.readRange_length {m : Memory} {i n : Nat} {bs : List Byte} (h : m.readRange i n = some bs) :
    bs.length = n := ((m.readRange_eq_some i n bs).1 h).1

/-- Reading back a written range. -/
theorem Memory.readRange_writeRange (m : Memory) (i : Nat) (bs : List Byte) :
    (m.writeRange i bs).readRange i bs.length = some bs :=
  (Memory.readRange_eq_some ..).2 ⟨rfl, fun _ hk => Memory.read_writeRange_in hk⟩

/-- Two memories that read alike on a range give the same MemRead. -/
theorem Memory.readRange_congr {m n : Memory} {i len : Nat} (h : ∀ k, k < len → m.read (i + k) = n.read (i + k)) :
    m.readRange i len = n.readRange i len := by
  cases hn : n.readRange i len with
  | none =>
    obtain ⟨k, hk, hkn⟩ := (n.readRange_eq_none i len).1 hn
    exact (m.readRange_eq_none i len).2 ⟨k, hk, (h k hk).trans hkn⟩
  | some bs =>
    obtain ⟨hlen, hall⟩ := (n.readRange_eq_some i len bs).1 hn
    exact (m.readRange_eq_some i len bs).2 ⟨hlen, fun k hk => (h k hk).trans (hall k hk)⟩

/-- Two ranges read one after the other. -/
theorem Memory.readRange_append {m : Memory} {i a b : Nat} {xs ys : List Byte} (hx : m.readRange i a = some xs)
    (hy : m.readRange (i + a) b = some ys) : m.readRange i (a + b) = some (xs ++ ys) := by
  obtain ⟨hxl, hxs⟩ := (m.readRange_eq_some i a xs).1 hx
  obtain ⟨hyl, hys⟩ := (m.readRange_eq_some (i + a) b ys).1 hy
  refine (m.readRange_eq_some i (a + b) _).2 ⟨by simp [hxl, hyl], fun k hk => ?_⟩
  by_cases hka : k < a
  · rw [hxs k hka, List.getElem?_append_left (by omega)]
  · rw [List.getElem?_append_right (by omega), hxl, ← hys (k - a) (by omega), show i + a + (k - a) = i + k by omega]

/-- A part of a range that can be read can be read. -/
theorem Memory.readRange_drop_take {m : Memory} {i n : Nat} {bs : List Byte} (h : m.readRange i n = some bs)
    {lo len : Nat} (hin : lo + len ≤ n) : m.readRange (i + lo) len = some ((bs.drop lo).take len) := by
  obtain ⟨hl, hall⟩ := (m.readRange_eq_some i n bs).1 h
  refine (m.readRange_eq_some _ _ _).2 ⟨by simp; omega, fun k hk => ?_⟩
  rw [show i + lo + k = i + (lo + k) by omega, hall _ (by omega), List.getElem?_take_of_lt hk, List.getElem?_drop]

/-! ### A buffer as a function of its index (R42) -/

/-- In canonical form a cell reads as exactly what is listed for it. -/
theorem Memory.read_eq_some_iff {m : Memory} (h : m.wf) (i : Nat) (v : Byte) : m.read i = some v ↔ (i, v) ∈ m := by
  induction m with
  | nil => simp
  | cons c rest ih =>
    obtain ⟨a, b⟩ := c
    rw [Memory.wf, List.pairwise_cons] at h
    have hlt : ∀ d ∈ rest, a < d.1 := h.1
    by_cases ha : a = i
    · subst ha
      have hnot : (a, v) ∉ rest := fun hm => Nat.lt_irrefl _ (hlt _ hm)
      simp [Memory.read, hnot, eq_comm]
    · have hne : ¬i = a := fun e => ha e.symm
      simp [Memory.read, ha, hne, ih h.2]

/-- The buffer with these cells. -/
@[irreducible] def Memory.ofCells (n : Nat) (cells : Fin n → Option Byte) : Memory :=
  (List.finRange n).filterMap fun i => (cells i).map fun v => (i.val, v)

theorem Memory.mem_ofCells {n : Nat} {cells : Fin n → Option Byte} {j : Nat} {v : Byte} :
    (j, v) ∈ Memory.ofCells n cells ↔ ∃ i : Fin n, cells i = some v ∧ i.val = j := by
  simp [Memory.ofCells, List.mem_filterMap]

theorem Memory.wf_ofCells (n : Nat) (cells : Fin n → Option Byte) : (Memory.ofCells n cells).wf := by
  rw [Memory.ofCells, Memory.wf, List.pairwise_filterMap]
  refine (List.pairwise_lt_finRange n).imp fun hab x hx y hy => ?_
  simp only [Option.map_eq_some_iff] at hx hy
  obtain ⟨_, _, rfl⟩ := hx
  obtain ⟨_, _, rfl⟩ := hy
  exact hab

@[simp] theorem Memory.read_ofCells {n : Nat} (cells : Fin n → Option Byte) (i : Fin n) :
    (Memory.ofCells n cells).read i.val = cells i := by
  refine Option.ext fun v => ?_
  rw [Memory.read_eq_some_iff (Memory.wf_ofCells n cells), Memory.mem_ofCells]
  exact ⟨fun ⟨_, h, e⟩ => Fin.ext e ▸ h, fun h => ⟨i, h, rfl⟩⟩

theorem Memory.read_ofCells_outside {n : Nat} (cells : Fin n → Option Byte) {j : Nat} (h : n ≤ j) :
    (Memory.ofCells n cells).read j = none := by
  cases hr : (Memory.ofCells n cells).read j with
  | none => rfl
  | some v =>
    rw [Memory.read_eq_some_iff (Memory.wf_ofCells n cells), Memory.mem_ofCells] at hr
    obtain ⟨i, _, rfl⟩ := hr
    exact absurd i.isLt (by omega)

end Sys2Proof.Machine
end

