-- ==== Sys2Proof/Laws/State.lean ====
section
/-! SUPPORT. What each named update does to each field of State, one lemma per field, true by unfolding: later proofs
never unfold a record update. -/

namespace Sys2Proof.Machine

variable (s : State)

/-! ### `raise` (R163): only `LAST_CODE`. -/

@[simp] theorem State.raise_lastCode (c : Code) : (s.raise c).lastCode = c.bits := rfl
@[simp] theorem State.raise_segState (c : Code) : (s.raise c).segState = s.segState := rfl
@[simp] theorem State.raise_rsmState (c : Code) : (s.raise c).rsmState = s.rsmState := rfl
@[simp] theorem State.raise_segErr (c : Code) : (s.raise c).segErr = s.segErr := rfl
@[simp] theorem State.raise_rsmErr (c : Code) : (s.raise c).rsmErr = s.rsmErr := rfl
@[simp] theorem State.raise_rsmLimitCause (c : Code) : (s.raise c).rsmLimitCause = s.rsmLimitCause := rfl
@[simp] theorem State.raise_din (c : Code) : (s.raise c).din = s.din := rfl
@[simp] theorem State.raise_hdrOut (c : Code) : (s.raise c).hdrOut = s.hdrOut := rfl
@[simp] theorem State.raise_decMt (c : Code) : (s.raise c).decMt = s.decMt := rfl
@[simp] theorem State.raise_decPbf (c : Code) : (s.raise c).decPbf = s.decPbf := rfl
@[simp] theorem State.raise_decCmd (c : Code) : (s.raise c).decCmd = s.decCmd := rfl
@[simp] theorem State.raise_decLen (c : Code) : (s.raise c).decLen = s.decLen := rfl
@[simp] theorem State.raise_decRsv (c : Code) : (s.raise c).decRsv = s.decRsv := rfl
@[simp] theorem State.raise_segMaxChunk (c : Code) : (s.raise c).segMaxChunk = s.segMaxChunk := rfl
@[simp] theorem State.raise_segCmd (c : Code) : (s.raise c).segCmd = s.segCmd := rfl
@[simp] theorem State.raise_segMt (c : Code) : (s.raise c).segMt = s.segMt := rfl
@[simp] theorem State.raise_segLen (c : Code) : (s.raise c).segLen = s.segLen := rfl
@[simp] theorem State.raise_segOff (c : Code) : (s.raise c).segOff = s.segOff := rfl
@[simp] theorem State.raise_segNframes (c : Code) : (s.raise c).segNframes = s.segNframes := rfl
@[simp] theorem State.raise_segChunk (c : Code) : (s.raise c).segChunk = s.segChunk := rfl
@[simp] theorem State.raise_frameOutLen (c : Code) : (s.raise c).frameOutLen = s.frameOutLen := rfl
@[simp] theorem State.raise_rsmCmd (c : Code) : (s.raise c).rsmCmd = s.rsmCmd := rfl
@[simp] theorem State.raise_rsmLen (c : Code) : (s.raise c).rsmLen = s.rsmLen := rfl
@[simp] theorem State.raise_rsmNframes (c : Code) : (s.raise c).rsmNframes = s.rsmNframes := rfl
@[simp] theorem State.raise_segBuf (c : Code) : (s.raise c).segBuf = s.segBuf := rfl
@[simp] theorem State.raise_frameOut (c : Code) : (s.raise c).frameOut = s.frameOut := rfl
@[simp] theorem State.raise_frameIn (c : Code) : (s.raise c).frameIn = s.frameIn := rfl
@[simp] theorem State.raise_rsmBuf (c : Code) : (s.raise c).rsmBuf = s.rsmBuf := rfl
@[simp] theorem State.raise_faulted (c : Code) : (s.raise c).faulted = s.faulted := rfl
@[simp] theorem State.raise_resetIn (c : Code) : (s.raise c).resetIn = s.resetIn := rfl
@[simp] theorem State.raise_pending (c : Code) : (s.raise c).pending = s.pending := rfl
@[simp] theorem State.raise_readData (c : Code) : (s.raise c).readData = s.readData := rfl
@[simp] theorem State.raise_draws (c : Code) : (s.raise c).draws = s.draws := rfl

/-! ### `complete` (R11): only `LAST_CODE`. -/

@[simp] theorem State.complete_lastCode : (s.complete).lastCode = Code.ok.bits := rfl
@[simp] theorem State.complete_segState : (s.complete).segState = s.segState := rfl
@[simp] theorem State.complete_rsmState : (s.complete).rsmState = s.rsmState := rfl
@[simp] theorem State.complete_segErr : (s.complete).segErr = s.segErr := rfl
@[simp] theorem State.complete_rsmErr : (s.complete).rsmErr = s.rsmErr := rfl
@[simp] theorem State.complete_rsmLimitCause : (s.complete).rsmLimitCause = s.rsmLimitCause := rfl
@[simp] theorem State.complete_din : (s.complete).din = s.din := rfl
@[simp] theorem State.complete_hdrOut : (s.complete).hdrOut = s.hdrOut := rfl
@[simp] theorem State.complete_decMt : (s.complete).decMt = s.decMt := rfl
@[simp] theorem State.complete_decPbf : (s.complete).decPbf = s.decPbf := rfl
@[simp] theorem State.complete_decCmd : (s.complete).decCmd = s.decCmd := rfl
@[simp] theorem State.complete_decLen : (s.complete).decLen = s.decLen := rfl
@[simp] theorem State.complete_decRsv : (s.complete).decRsv = s.decRsv := rfl
@[simp] theorem State.complete_segMaxChunk : (s.complete).segMaxChunk = s.segMaxChunk := rfl
@[simp] theorem State.complete_segCmd : (s.complete).segCmd = s.segCmd := rfl
@[simp] theorem State.complete_segMt : (s.complete).segMt = s.segMt := rfl
@[simp] theorem State.complete_segLen : (s.complete).segLen = s.segLen := rfl
@[simp] theorem State.complete_segOff : (s.complete).segOff = s.segOff := rfl
@[simp] theorem State.complete_segNframes : (s.complete).segNframes = s.segNframes := rfl
@[simp] theorem State.complete_segChunk : (s.complete).segChunk = s.segChunk := rfl
@[simp] theorem State.complete_frameOutLen : (s.complete).frameOutLen = s.frameOutLen := rfl
@[simp] theorem State.complete_rsmCmd : (s.complete).rsmCmd = s.rsmCmd := rfl
@[simp] theorem State.complete_rsmLen : (s.complete).rsmLen = s.rsmLen := rfl
@[simp] theorem State.complete_rsmNframes : (s.complete).rsmNframes = s.rsmNframes := rfl
@[simp] theorem State.complete_segBuf : (s.complete).segBuf = s.segBuf := rfl
@[simp] theorem State.complete_frameOut : (s.complete).frameOut = s.frameOut := rfl
@[simp] theorem State.complete_frameIn : (s.complete).frameIn = s.frameIn := rfl
@[simp] theorem State.complete_rsmBuf : (s.complete).rsmBuf = s.rsmBuf := rfl
@[simp] theorem State.complete_faulted : (s.complete).faulted = s.faulted := rfl
@[simp] theorem State.complete_resetIn : (s.complete).resetIn = s.resetIn := rfl
@[simp] theorem State.complete_pending : (s.complete).pending = s.pending := rfl
@[simp] theorem State.complete_readData : (s.complete).readData = s.readData := rfl
@[simp] theorem State.complete_draws : (s.complete).draws = s.draws := rfl

/-! ### `rsmFail` (R142): the Reassembler's error transition and `LAST_CODE`. -/

@[simp] theorem State.rsmFail_lastCode (c : Code) (k : BitVec 2) : (s.rsmFail c k).lastCode = c.bits := rfl
@[simp] theorem State.rsmFail_segState (c : Code) (k : BitVec 2) : (s.rsmFail c k).segState = s.segState := rfl
@[simp] theorem State.rsmFail_rsmState (c : Code) (k : BitVec 2) : (s.rsmFail c k).rsmState = .error := rfl
@[simp] theorem State.rsmFail_segErr (c : Code) (k : BitVec 2) : (s.rsmFail c k).segErr = s.segErr := rfl
@[simp] theorem State.rsmFail_rsmErr (c : Code) (k : BitVec 2) : (s.rsmFail c k).rsmErr = c.bits := rfl
@[simp] theorem State.rsmFail_rsmLimitCause (c : Code) (k : BitVec 2) : (s.rsmFail c k).rsmLimitCause = k := rfl
@[simp] theorem State.rsmFail_din (c : Code) (k : BitVec 2) : (s.rsmFail c k).din = s.din := rfl
@[simp] theorem State.rsmFail_hdrOut (c : Code) (k : BitVec 2) : (s.rsmFail c k).hdrOut = s.hdrOut := rfl
@[simp] theorem State.rsmFail_decMt (c : Code) (k : BitVec 2) : (s.rsmFail c k).decMt = s.decMt := rfl
@[simp] theorem State.rsmFail_decPbf (c : Code) (k : BitVec 2) : (s.rsmFail c k).decPbf = s.decPbf := rfl
@[simp] theorem State.rsmFail_decCmd (c : Code) (k : BitVec 2) : (s.rsmFail c k).decCmd = s.decCmd := rfl
@[simp] theorem State.rsmFail_decLen (c : Code) (k : BitVec 2) : (s.rsmFail c k).decLen = s.decLen := rfl
@[simp] theorem State.rsmFail_decRsv (c : Code) (k : BitVec 2) : (s.rsmFail c k).decRsv = s.decRsv := rfl
@[simp] theorem State.rsmFail_segMaxChunk (c : Code) (k : BitVec 2) : (s.rsmFail c k).segMaxChunk = s.segMaxChunk := rfl
@[simp] theorem State.rsmFail_segCmd (c : Code) (k : BitVec 2) : (s.rsmFail c k).segCmd = s.segCmd := rfl
@[simp] theorem State.rsmFail_segMt (c : Code) (k : BitVec 2) : (s.rsmFail c k).segMt = s.segMt := rfl
@[simp] theorem State.rsmFail_segLen (c : Code) (k : BitVec 2) : (s.rsmFail c k).segLen = s.segLen := rfl
@[simp] theorem State.rsmFail_segOff (c : Code) (k : BitVec 2) : (s.rsmFail c k).segOff = s.segOff := rfl
@[simp] theorem State.rsmFail_segNframes (c : Code) (k : BitVec 2) : (s.rsmFail c k).segNframes = s.segNframes := rfl
@[simp] theorem State.rsmFail_segChunk (c : Code) (k : BitVec 2) : (s.rsmFail c k).segChunk = s.segChunk := rfl
@[simp] theorem State.rsmFail_frameOutLen (c : Code) (k : BitVec 2) : (s.rsmFail c k).frameOutLen = s.frameOutLen := rfl
@[simp] theorem State.rsmFail_rsmCmd (c : Code) (k : BitVec 2) : (s.rsmFail c k).rsmCmd = s.rsmCmd := rfl
@[simp] theorem State.rsmFail_rsmLen (c : Code) (k : BitVec 2) : (s.rsmFail c k).rsmLen = s.rsmLen := rfl
@[simp] theorem State.rsmFail_rsmNframes (c : Code) (k : BitVec 2) : (s.rsmFail c k).rsmNframes = s.rsmNframes := rfl
@[simp] theorem State.rsmFail_segBuf (c : Code) (k : BitVec 2) : (s.rsmFail c k).segBuf = s.segBuf := rfl
@[simp] theorem State.rsmFail_frameOut (c : Code) (k : BitVec 2) : (s.rsmFail c k).frameOut = s.frameOut := rfl
@[simp] theorem State.rsmFail_frameIn (c : Code) (k : BitVec 2) : (s.rsmFail c k).frameIn = s.frameIn := rfl
@[simp] theorem State.rsmFail_rsmBuf (c : Code) (k : BitVec 2) : (s.rsmFail c k).rsmBuf = s.rsmBuf := rfl
@[simp] theorem State.rsmFail_faulted (c : Code) (k : BitVec 2) : (s.rsmFail c k).faulted = s.faulted := rfl
@[simp] theorem State.rsmFail_resetIn (c : Code) (k : BitVec 2) : (s.rsmFail c k).resetIn = s.resetIn := rfl
@[simp] theorem State.rsmFail_pending (c : Code) (k : BitVec 2) : (s.rsmFail c k).pending = s.pending := rfl
@[simp] theorem State.rsmFail_readData (c : Code) (k : BitVec 2) : (s.rsmFail c k).readData = s.readData := rfl
@[simp] theorem State.rsmFail_draws (c : Code) (k : BitVec 2) : (s.rsmFail c k).draws = s.draws := rfl

/-! ### A model fault's mark (R167, R168): only `faulted`. -/

@[simp] theorem State.mark_lastCode (f : ModelFault) : (s.mark f).lastCode = s.lastCode := rfl
@[simp] theorem State.mark_segState (f : ModelFault) : (s.mark f).segState = s.segState := rfl
@[simp] theorem State.mark_rsmState (f : ModelFault) : (s.mark f).rsmState = s.rsmState := rfl
@[simp] theorem State.mark_segErr (f : ModelFault) : (s.mark f).segErr = s.segErr := rfl
@[simp] theorem State.mark_rsmErr (f : ModelFault) : (s.mark f).rsmErr = s.rsmErr := rfl
@[simp] theorem State.mark_rsmLimitCause (f : ModelFault) : (s.mark f).rsmLimitCause = s.rsmLimitCause := rfl
@[simp] theorem State.mark_din (f : ModelFault) : (s.mark f).din = s.din := rfl
@[simp] theorem State.mark_hdrOut (f : ModelFault) : (s.mark f).hdrOut = s.hdrOut := rfl
@[simp] theorem State.mark_decMt (f : ModelFault) : (s.mark f).decMt = s.decMt := rfl
@[simp] theorem State.mark_decPbf (f : ModelFault) : (s.mark f).decPbf = s.decPbf := rfl
@[simp] theorem State.mark_decCmd (f : ModelFault) : (s.mark f).decCmd = s.decCmd := rfl
@[simp] theorem State.mark_decLen (f : ModelFault) : (s.mark f).decLen = s.decLen := rfl
@[simp] theorem State.mark_decRsv (f : ModelFault) : (s.mark f).decRsv = s.decRsv := rfl
@[simp] theorem State.mark_segMaxChunk (f : ModelFault) : (s.mark f).segMaxChunk = s.segMaxChunk := rfl
@[simp] theorem State.mark_segCmd (f : ModelFault) : (s.mark f).segCmd = s.segCmd := rfl
@[simp] theorem State.mark_segMt (f : ModelFault) : (s.mark f).segMt = s.segMt := rfl
@[simp] theorem State.mark_segLen (f : ModelFault) : (s.mark f).segLen = s.segLen := rfl
@[simp] theorem State.mark_segOff (f : ModelFault) : (s.mark f).segOff = s.segOff := rfl
@[simp] theorem State.mark_segNframes (f : ModelFault) : (s.mark f).segNframes = s.segNframes := rfl
@[simp] theorem State.mark_segChunk (f : ModelFault) : (s.mark f).segChunk = s.segChunk := rfl
@[simp] theorem State.mark_frameOutLen (f : ModelFault) : (s.mark f).frameOutLen = s.frameOutLen := rfl
@[simp] theorem State.mark_rsmCmd (f : ModelFault) : (s.mark f).rsmCmd = s.rsmCmd := rfl
@[simp] theorem State.mark_rsmLen (f : ModelFault) : (s.mark f).rsmLen = s.rsmLen := rfl
@[simp] theorem State.mark_rsmNframes (f : ModelFault) : (s.mark f).rsmNframes = s.rsmNframes := rfl
@[simp] theorem State.mark_segBuf (f : ModelFault) : (s.mark f).segBuf = s.segBuf := rfl
@[simp] theorem State.mark_frameOut (f : ModelFault) : (s.mark f).frameOut = s.frameOut := rfl
@[simp] theorem State.mark_frameIn (f : ModelFault) : (s.mark f).frameIn = s.frameIn := rfl
@[simp] theorem State.mark_rsmBuf (f : ModelFault) : (s.mark f).rsmBuf = s.rsmBuf := rfl
@[simp] theorem State.mark_faulted (f : ModelFault) : (s.mark f).faulted = some f := rfl
@[simp] theorem State.mark_resetIn (f : ModelFault) : (s.mark f).resetIn = s.resetIn := rfl
@[simp] theorem State.mark_pending (f : ModelFault) : (s.mark f).pending = s.pending := rfl
@[simp] theorem State.mark_readData (f : ModelFault) : (s.mark f).readData = s.readData := rfl
@[simp] theorem State.mark_draws (f : ModelFault) : (s.mark f).draws = s.draws := rfl

/-! ### A consumed frame is counted (R143): only `RSM_NFRAMES`. -/

@[simp] theorem State.countFrame_lastCode : (s.countFrame).lastCode = s.lastCode := rfl
@[simp] theorem State.countFrame_segState : (s.countFrame).segState = s.segState := rfl
@[simp] theorem State.countFrame_rsmState : (s.countFrame).rsmState = s.rsmState := rfl
@[simp] theorem State.countFrame_segErr : (s.countFrame).segErr = s.segErr := rfl
@[simp] theorem State.countFrame_rsmErr : (s.countFrame).rsmErr = s.rsmErr := rfl
@[simp] theorem State.countFrame_rsmLimitCause : (s.countFrame).rsmLimitCause = s.rsmLimitCause := rfl
@[simp] theorem State.countFrame_din : (s.countFrame).din = s.din := rfl
@[simp] theorem State.countFrame_hdrOut : (s.countFrame).hdrOut = s.hdrOut := rfl
@[simp] theorem State.countFrame_decMt : (s.countFrame).decMt = s.decMt := rfl
@[simp] theorem State.countFrame_decPbf : (s.countFrame).decPbf = s.decPbf := rfl
@[simp] theorem State.countFrame_decCmd : (s.countFrame).decCmd = s.decCmd := rfl
@[simp] theorem State.countFrame_decLen : (s.countFrame).decLen = s.decLen := rfl
@[simp] theorem State.countFrame_decRsv : (s.countFrame).decRsv = s.decRsv := rfl
@[simp] theorem State.countFrame_segMaxChunk : (s.countFrame).segMaxChunk = s.segMaxChunk := rfl
@[simp] theorem State.countFrame_segCmd : (s.countFrame).segCmd = s.segCmd := rfl
@[simp] theorem State.countFrame_segMt : (s.countFrame).segMt = s.segMt := rfl
@[simp] theorem State.countFrame_segLen : (s.countFrame).segLen = s.segLen := rfl
@[simp] theorem State.countFrame_segOff : (s.countFrame).segOff = s.segOff := rfl
@[simp] theorem State.countFrame_segNframes : (s.countFrame).segNframes = s.segNframes := rfl
@[simp] theorem State.countFrame_segChunk : (s.countFrame).segChunk = s.segChunk := rfl
@[simp] theorem State.countFrame_frameOutLen : (s.countFrame).frameOutLen = s.frameOutLen := rfl
@[simp] theorem State.countFrame_rsmCmd : (s.countFrame).rsmCmd = s.rsmCmd := rfl
@[simp] theorem State.countFrame_rsmLen : (s.countFrame).rsmLen = s.rsmLen := rfl
@[simp] theorem State.countFrame_rsmNframes : (s.countFrame).rsmNframes = BitVec.ofNat 4 (s.rsmNframes.toNat + 1) := rfl
@[simp] theorem State.countFrame_segBuf : (s.countFrame).segBuf = s.segBuf := rfl
@[simp] theorem State.countFrame_frameOut : (s.countFrame).frameOut = s.frameOut := rfl
@[simp] theorem State.countFrame_frameIn : (s.countFrame).frameIn = s.frameIn := rfl
@[simp] theorem State.countFrame_rsmBuf : (s.countFrame).rsmBuf = s.rsmBuf := rfl
@[simp] theorem State.countFrame_faulted : (s.countFrame).faulted = s.faulted := rfl
@[simp] theorem State.countFrame_resetIn : (s.countFrame).resetIn = s.resetIn := rfl
@[simp] theorem State.countFrame_pending : (s.countFrame).pending = s.pending := rfl
@[simp] theorem State.countFrame_readData : (s.countFrame).readData = s.readData := rfl
@[simp] theorem State.countFrame_draws : (s.countFrame).draws = s.draws := rfl

/-! ### The append (R143): only `RSM_BUF` and `RSM_LEN`. -/

@[simp] theorem State.appendPayload_lastCode (bs : List Byte) : (s.appendPayload bs).lastCode = s.lastCode := rfl
@[simp] theorem State.appendPayload_segState (bs : List Byte) : (s.appendPayload bs).segState = s.segState := rfl
@[simp] theorem State.appendPayload_rsmState (bs : List Byte) : (s.appendPayload bs).rsmState = s.rsmState := rfl
@[simp] theorem State.appendPayload_segErr (bs : List Byte) : (s.appendPayload bs).segErr = s.segErr := rfl
@[simp] theorem State.appendPayload_rsmErr (bs : List Byte) : (s.appendPayload bs).rsmErr = s.rsmErr := rfl
@[simp] theorem State.appendPayload_rsmLimitCause (bs : List Byte) : (s.appendPayload bs).rsmLimitCause = s.rsmLimitCause := rfl
@[simp] theorem State.appendPayload_din (bs : List Byte) : (s.appendPayload bs).din = s.din := rfl
@[simp] theorem State.appendPayload_hdrOut (bs : List Byte) : (s.appendPayload bs).hdrOut = s.hdrOut := rfl
@[simp] theorem State.appendPayload_decMt (bs : List Byte) : (s.appendPayload bs).decMt = s.decMt := rfl
@[simp] theorem State.appendPayload_decPbf (bs : List Byte) : (s.appendPayload bs).decPbf = s.decPbf := rfl
@[simp] theorem State.appendPayload_decCmd (bs : List Byte) : (s.appendPayload bs).decCmd = s.decCmd := rfl
@[simp] theorem State.appendPayload_decLen (bs : List Byte) : (s.appendPayload bs).decLen = s.decLen := rfl
@[simp] theorem State.appendPayload_decRsv (bs : List Byte) : (s.appendPayload bs).decRsv = s.decRsv := rfl
@[simp] theorem State.appendPayload_segMaxChunk (bs : List Byte) : (s.appendPayload bs).segMaxChunk = s.segMaxChunk := rfl
@[simp] theorem State.appendPayload_segCmd (bs : List Byte) : (s.appendPayload bs).segCmd = s.segCmd := rfl
@[simp] theorem State.appendPayload_segMt (bs : List Byte) : (s.appendPayload bs).segMt = s.segMt := rfl
@[simp] theorem State.appendPayload_segLen (bs : List Byte) : (s.appendPayload bs).segLen = s.segLen := rfl
@[simp] theorem State.appendPayload_segOff (bs : List Byte) : (s.appendPayload bs).segOff = s.segOff := rfl
@[simp] theorem State.appendPayload_segNframes (bs : List Byte) : (s.appendPayload bs).segNframes = s.segNframes := rfl
@[simp] theorem State.appendPayload_segChunk (bs : List Byte) : (s.appendPayload bs).segChunk = s.segChunk := rfl
@[simp] theorem State.appendPayload_frameOutLen (bs : List Byte) : (s.appendPayload bs).frameOutLen = s.frameOutLen := rfl
@[simp] theorem State.appendPayload_rsmCmd (bs : List Byte) : (s.appendPayload bs).rsmCmd = s.rsmCmd := rfl
@[simp] theorem State.appendPayload_rsmLen (bs : List Byte) : (s.appendPayload bs).rsmLen = BitVec.ofNat 10 (s.rsmLen.toNat + bs.length) := rfl
@[simp] theorem State.appendPayload_rsmNframes (bs : List Byte) : (s.appendPayload bs).rsmNframes = s.rsmNframes := rfl
@[simp] theorem State.appendPayload_segBuf (bs : List Byte) : (s.appendPayload bs).segBuf = s.segBuf := rfl
@[simp] theorem State.appendPayload_frameOut (bs : List Byte) : (s.appendPayload bs).frameOut = s.frameOut := rfl
@[simp] theorem State.appendPayload_frameIn (bs : List Byte) : (s.appendPayload bs).frameIn = s.frameIn := rfl
@[simp] theorem State.appendPayload_rsmBuf (bs : List Byte) : (s.appendPayload bs).rsmBuf = s.rsmBuf.writeRange s.rsmLen.toNat bs := rfl
@[simp] theorem State.appendPayload_faulted (bs : List Byte) : (s.appendPayload bs).faulted = s.faulted := rfl
@[simp] theorem State.appendPayload_resetIn (bs : List Byte) : (s.appendPayload bs).resetIn = s.resetIn := rfl
@[simp] theorem State.appendPayload_pending (bs : List Byte) : (s.appendPayload bs).pending = s.pending := rfl
@[simp] theorem State.appendPayload_readData (bs : List Byte) : (s.appendPayload bs).readData = s.readData := rfl
@[simp] theorem State.appendPayload_draws (bs : List Byte) : (s.appendPayload bs).draws = s.draws := rfl

/-! ### The frame SEG_NEXT leaves (R125). -/

@[simp] theorem State.emitFrame_lastCode (p : Params) (bs : List Byte) : (s.emitFrame p bs).lastCode = s.lastCode := rfl
@[simp] theorem State.emitFrame_segState (p : Params) (bs : List Byte) : (s.emitFrame p bs).segState = if s.chunkLast then .done else s.segState := rfl
@[simp] theorem State.emitFrame_rsmState (p : Params) (bs : List Byte) : (s.emitFrame p bs).rsmState = s.rsmState := rfl
@[simp] theorem State.emitFrame_segErr (p : Params) (bs : List Byte) : (s.emitFrame p bs).segErr = s.segErr := rfl
@[simp] theorem State.emitFrame_rsmErr (p : Params) (bs : List Byte) : (s.emitFrame p bs).rsmErr = s.rsmErr := rfl
@[simp] theorem State.emitFrame_rsmLimitCause (p : Params) (bs : List Byte) : (s.emitFrame p bs).rsmLimitCause = s.rsmLimitCause := rfl
@[simp] theorem State.emitFrame_din (p : Params) (bs : List Byte) : (s.emitFrame p bs).din = s.din := rfl
@[simp] theorem State.emitFrame_hdrOut (p : Params) (bs : List Byte) : (s.emitFrame p bs).hdrOut = s.hdrOut := rfl
@[simp] theorem State.emitFrame_decMt (p : Params) (bs : List Byte) : (s.emitFrame p bs).decMt = s.decMt := rfl
@[simp] theorem State.emitFrame_decPbf (p : Params) (bs : List Byte) : (s.emitFrame p bs).decPbf = s.decPbf := rfl
@[simp] theorem State.emitFrame_decCmd (p : Params) (bs : List Byte) : (s.emitFrame p bs).decCmd = s.decCmd := rfl
@[simp] theorem State.emitFrame_decLen (p : Params) (bs : List Byte) : (s.emitFrame p bs).decLen = s.decLen := rfl
@[simp] theorem State.emitFrame_decRsv (p : Params) (bs : List Byte) : (s.emitFrame p bs).decRsv = s.decRsv := rfl
@[simp] theorem State.emitFrame_segMaxChunk (p : Params) (bs : List Byte) : (s.emitFrame p bs).segMaxChunk = s.segMaxChunk := rfl
@[simp] theorem State.emitFrame_segCmd (p : Params) (bs : List Byte) : (s.emitFrame p bs).segCmd = s.segCmd := rfl
@[simp] theorem State.emitFrame_segMt (p : Params) (bs : List Byte) : (s.emitFrame p bs).segMt = s.segMt := rfl
@[simp] theorem State.emitFrame_segLen (p : Params) (bs : List Byte) : (s.emitFrame p bs).segLen = s.segLen := rfl
@[simp] theorem State.emitFrame_segOff (p : Params) (bs : List Byte) : (s.emitFrame p bs).segOff = BitVec.ofNat 10 (s.segOff.toNat + s.chunkLen) := rfl
@[simp] theorem State.emitFrame_segNframes (p : Params) (bs : List Byte) : (s.emitFrame p bs).segNframes = BitVec.ofNat 10 (s.segNframes.toNat + 1) := rfl
@[simp] theorem State.emitFrame_segChunk (p : Params) (bs : List Byte) : (s.emitFrame p bs).segChunk = s.segChunk := rfl
@[simp] theorem State.emitFrame_frameOutLen (p : Params) (bs : List Byte) : (s.emitFrame p bs).frameOutLen = BitVec.ofNat 9 (Config.hdrBytes + s.chunkLen) := rfl
@[simp] theorem State.emitFrame_rsmCmd (p : Params) (bs : List Byte) : (s.emitFrame p bs).rsmCmd = s.rsmCmd := rfl
@[simp] theorem State.emitFrame_rsmLen (p : Params) (bs : List Byte) : (s.emitFrame p bs).rsmLen = s.rsmLen := rfl
@[simp] theorem State.emitFrame_rsmNframes (p : Params) (bs : List Byte) : (s.emitFrame p bs).rsmNframes = s.rsmNframes := rfl
@[simp] theorem State.emitFrame_segBuf (p : Params) (bs : List Byte) : (s.emitFrame p bs).segBuf = s.segBuf := rfl
@[simp] theorem State.emitFrame_frameOut (p : Params) (bs : List Byte) : (s.emitFrame p bs).frameOut =
    (s.frameOut.writeRange 0 (hdrEncode s.segMt (s.chunkFlag p) s.segCmd (BitVec.ofNat 8 s.chunkLen))).writeRange
      Config.hdrBytes bs := rfl
@[simp] theorem State.emitFrame_frameIn (p : Params) (bs : List Byte) : (s.emitFrame p bs).frameIn = s.frameIn := rfl
@[simp] theorem State.emitFrame_rsmBuf (p : Params) (bs : List Byte) : (s.emitFrame p bs).rsmBuf = s.rsmBuf := rfl
@[simp] theorem State.emitFrame_faulted (p : Params) (bs : List Byte) : (s.emitFrame p bs).faulted = s.faulted := rfl
@[simp] theorem State.emitFrame_resetIn (p : Params) (bs : List Byte) : (s.emitFrame p bs).resetIn = s.resetIn := rfl
@[simp] theorem State.emitFrame_pending (p : Params) (bs : List Byte) : (s.emitFrame p bs).pending = s.pending := rfl
@[simp] theorem State.emitFrame_readData (p : Params) (bs : List Byte) : (s.emitFrame p bs).readData = s.readData := rfl
@[simp] theorem State.emitFrame_draws (p : Params) (bs : List Byte) : (s.emitFrame p bs).draws = s.draws := rfl

/-! ### A host read (R54): only the datum returned. -/

@[simp] theorem State.returning_lastCode (v : Word) : (s.returning v).lastCode = s.lastCode := rfl
@[simp] theorem State.returning_segState (v : Word) : (s.returning v).segState = s.segState := rfl
@[simp] theorem State.returning_rsmState (v : Word) : (s.returning v).rsmState = s.rsmState := rfl
@[simp] theorem State.returning_segErr (v : Word) : (s.returning v).segErr = s.segErr := rfl
@[simp] theorem State.returning_rsmErr (v : Word) : (s.returning v).rsmErr = s.rsmErr := rfl
@[simp] theorem State.returning_rsmLimitCause (v : Word) : (s.returning v).rsmLimitCause = s.rsmLimitCause := rfl
@[simp] theorem State.returning_din (v : Word) : (s.returning v).din = s.din := rfl
@[simp] theorem State.returning_hdrOut (v : Word) : (s.returning v).hdrOut = s.hdrOut := rfl
@[simp] theorem State.returning_decMt (v : Word) : (s.returning v).decMt = s.decMt := rfl
@[simp] theorem State.returning_decPbf (v : Word) : (s.returning v).decPbf = s.decPbf := rfl
@[simp] theorem State.returning_decCmd (v : Word) : (s.returning v).decCmd = s.decCmd := rfl
@[simp] theorem State.returning_decLen (v : Word) : (s.returning v).decLen = s.decLen := rfl
@[simp] theorem State.returning_decRsv (v : Word) : (s.returning v).decRsv = s.decRsv := rfl
@[simp] theorem State.returning_segMaxChunk (v : Word) : (s.returning v).segMaxChunk = s.segMaxChunk := rfl
@[simp] theorem State.returning_segCmd (v : Word) : (s.returning v).segCmd = s.segCmd := rfl
@[simp] theorem State.returning_segMt (v : Word) : (s.returning v).segMt = s.segMt := rfl
@[simp] theorem State.returning_segLen (v : Word) : (s.returning v).segLen = s.segLen := rfl
@[simp] theorem State.returning_segOff (v : Word) : (s.returning v).segOff = s.segOff := rfl
@[simp] theorem State.returning_segNframes (v : Word) : (s.returning v).segNframes = s.segNframes := rfl
@[simp] theorem State.returning_segChunk (v : Word) : (s.returning v).segChunk = s.segChunk := rfl
@[simp] theorem State.returning_frameOutLen (v : Word) : (s.returning v).frameOutLen = s.frameOutLen := rfl
@[simp] theorem State.returning_rsmCmd (v : Word) : (s.returning v).rsmCmd = s.rsmCmd := rfl
@[simp] theorem State.returning_rsmLen (v : Word) : (s.returning v).rsmLen = s.rsmLen := rfl
@[simp] theorem State.returning_rsmNframes (v : Word) : (s.returning v).rsmNframes = s.rsmNframes := rfl
@[simp] theorem State.returning_segBuf (v : Word) : (s.returning v).segBuf = s.segBuf := rfl
@[simp] theorem State.returning_frameOut (v : Word) : (s.returning v).frameOut = s.frameOut := rfl
@[simp] theorem State.returning_frameIn (v : Word) : (s.returning v).frameIn = s.frameIn := rfl
@[simp] theorem State.returning_rsmBuf (v : Word) : (s.returning v).rsmBuf = s.rsmBuf := rfl
@[simp] theorem State.returning_faulted (v : Word) : (s.returning v).faulted = s.faulted := rfl
@[simp] theorem State.returning_resetIn (v : Word) : (s.returning v).resetIn = s.resetIn := rfl
@[simp] theorem State.returning_pending (v : Word) : (s.returning v).pending = s.pending := rfl
@[simp] theorem State.returning_readData (v : Word) : (s.returning v).readData = some v := rfl
@[simp] theorem State.returning_draws (v : Word) : (s.returning v).draws = s.draws := rfl

/-! ### The host fills `FRAME_IN` (R83): only that buffer. -/

@[simp] theorem State.placeInbound_lastCode (bs : List Byte) : (s.placeInbound bs).lastCode = s.lastCode := rfl
@[simp] theorem State.placeInbound_segState (bs : List Byte) : (s.placeInbound bs).segState = s.segState := rfl
@[simp] theorem State.placeInbound_rsmState (bs : List Byte) : (s.placeInbound bs).rsmState = s.rsmState := rfl
@[simp] theorem State.placeInbound_segErr (bs : List Byte) : (s.placeInbound bs).segErr = s.segErr := rfl
@[simp] theorem State.placeInbound_rsmErr (bs : List Byte) : (s.placeInbound bs).rsmErr = s.rsmErr := rfl
@[simp] theorem State.placeInbound_rsmLimitCause (bs : List Byte) : (s.placeInbound bs).rsmLimitCause = s.rsmLimitCause := rfl
@[simp] theorem State.placeInbound_din (bs : List Byte) : (s.placeInbound bs).din = s.din := rfl
@[simp] theorem State.placeInbound_hdrOut (bs : List Byte) : (s.placeInbound bs).hdrOut = s.hdrOut := rfl
@[simp] theorem State.placeInbound_decMt (bs : List Byte) : (s.placeInbound bs).decMt = s.decMt := rfl
@[simp] theorem State.placeInbound_decPbf (bs : List Byte) : (s.placeInbound bs).decPbf = s.decPbf := rfl
@[simp] theorem State.placeInbound_decCmd (bs : List Byte) : (s.placeInbound bs).decCmd = s.decCmd := rfl
@[simp] theorem State.placeInbound_decLen (bs : List Byte) : (s.placeInbound bs).decLen = s.decLen := rfl
@[simp] theorem State.placeInbound_decRsv (bs : List Byte) : (s.placeInbound bs).decRsv = s.decRsv := rfl
@[simp] theorem State.placeInbound_segMaxChunk (bs : List Byte) : (s.placeInbound bs).segMaxChunk = s.segMaxChunk := rfl
@[simp] theorem State.placeInbound_segCmd (bs : List Byte) : (s.placeInbound bs).segCmd = s.segCmd := rfl
@[simp] theorem State.placeInbound_segMt (bs : List Byte) : (s.placeInbound bs).segMt = s.segMt := rfl
@[simp] theorem State.placeInbound_segLen (bs : List Byte) : (s.placeInbound bs).segLen = s.segLen := rfl
@[simp] theorem State.placeInbound_segOff (bs : List Byte) : (s.placeInbound bs).segOff = s.segOff := rfl
@[simp] theorem State.placeInbound_segNframes (bs : List Byte) : (s.placeInbound bs).segNframes = s.segNframes := rfl
@[simp] theorem State.placeInbound_segChunk (bs : List Byte) : (s.placeInbound bs).segChunk = s.segChunk := rfl
@[simp] theorem State.placeInbound_frameOutLen (bs : List Byte) : (s.placeInbound bs).frameOutLen = s.frameOutLen := rfl
@[simp] theorem State.placeInbound_rsmCmd (bs : List Byte) : (s.placeInbound bs).rsmCmd = s.rsmCmd := rfl
@[simp] theorem State.placeInbound_rsmLen (bs : List Byte) : (s.placeInbound bs).rsmLen = s.rsmLen := rfl
@[simp] theorem State.placeInbound_rsmNframes (bs : List Byte) : (s.placeInbound bs).rsmNframes = s.rsmNframes := rfl
@[simp] theorem State.placeInbound_segBuf (bs : List Byte) : (s.placeInbound bs).segBuf = s.segBuf := rfl
@[simp] theorem State.placeInbound_frameOut (bs : List Byte) : (s.placeInbound bs).frameOut = s.frameOut := rfl
@[simp] theorem State.placeInbound_frameIn (bs : List Byte) : (s.placeInbound bs).frameIn = s.frameIn.writeRange 0 bs := rfl
@[simp] theorem State.placeInbound_rsmBuf (bs : List Byte) : (s.placeInbound bs).rsmBuf = s.rsmBuf := rfl
@[simp] theorem State.placeInbound_faulted (bs : List Byte) : (s.placeInbound bs).faulted = s.faulted := rfl
@[simp] theorem State.placeInbound_resetIn (bs : List Byte) : (s.placeInbound bs).resetIn = s.resetIn := rfl
@[simp] theorem State.placeInbound_pending (bs : List Byte) : (s.placeInbound bs).pending = s.pending := rfl
@[simp] theorem State.placeInbound_readData (bs : List Byte) : (s.placeInbound bs).readData = s.readData := rfl
@[simp] theorem State.placeInbound_draws (bs : List Byte) : (s.placeInbound bs).draws = s.draws := rfl

end Sys2Proof.Machine
end

