-- ==== Sys2Proof/Laws/Ops.lean ====
section
/-! SUPPORT. Once for each shared operation, everything it can do: the model faults, the operand forms, SEG_NEXT,
RSM_PUSH, a host access, a step, and the block at other parameters. Later proofs cite these instead of unfolding the operations. -/

namespace Sys2Proof.Machine

/-! ### Model faults (R167, R168) -/

@[simp] theorem State.modelFault_ne_next (f : ModelFault) (s t : State) : s.modelFault f ≠ .next t := by
  simp [State.modelFault]

@[simp] theorem State.modelFault_ne_refused (f : ModelFault) (s : State) (r : Refusal) :
    s.modelFault f ≠ .refused r := by simp [State.modelFault]

/-! ### Reset (R41) -/

/-- The buffers after reset are in canonical form, and nothing in them is defined. -/
theorem State.reset_buffer_wf (b : Buf) : (State.reset.buffer b).wf := by cases b <;> decide

@[simp] theorem State.reset_cell (b : Buf) (i : Nat) : State.reset.cell b i = none := by cases b <;> rfl

/-! ### The header (R80, R100, R101) -/

@[simp] theorem hdrEncode_length (mt : MessageType) (pbf : BoundaryFlag) (cmd : CommandId) (len : Byte) :
    (hdrEncode mt pbf cmd len).length = 4 := rfl

@[simp] theorem registerBytes_length (w : Word) : (registerBytes w).length = 4 := rfl

/-- hdrDecode fails exactly on fewer than 4 bytes (R101). -/
theorem hdrDecode_eq_none (bs : List Byte) : hdrDecode bs = none ↔ bs.length < 4 := by
  rcases bs with _ | ⟨a, _ | ⟨b, _ | ⟨c, _ | ⟨d, rest⟩⟩⟩⟩ <;> simp [hdrDecode]

/-- hdrDecode reads the first 4 bytes only (R101). -/
theorem hdrDecode_append (bs rest : List Byte) (h : bs.length = 4) : hdrDecode (bs ++ rest) = hdrDecode bs := by
  rcases bs with _ | ⟨a, _ | ⟨b, _ | ⟨c, _ | ⟨d, _ | ⟨e, more⟩⟩⟩⟩⟩ <;> simp_all [hdrDecode]

/-! ### The chunk (R124) -/

theorem State.chunkLen_le_chunk (s : State) : s.chunkLen ≤ s.segChunk.toNat := Nat.min_le_left ..

theorem State.chunkLen_lt (s : State) : s.chunkLen < 256 := Nat.lt_of_le_of_lt s.chunkLen_le_chunk s.segChunk.isLt

theorem State.off_add_chunkLen_le {s : State} (h : s.segOff.toNat ≤ s.segLen.toNat) :
    s.segOff.toNat + s.chunkLen ≤ s.segLen.toNat := by
  unfold State.chunkLen
  omega

/-! ### SEG_NEXT (R125) -/

/-- Everything SEG_NEXT can do (R125). -/
theorem segNextWith_cases (p : Params) (s : State) :
    (s.segState ≠ .active ∧ segNextWith p s = .next (s.raise .sequenceError)) ∨
    (s.segState = .active ∧ s.chunkBytes = none ∧ segNextWith p s = s.modelFault .undefinedRead) ∨
    (∃ chunk, s.segState = .active ∧ s.chunkBytes = some chunk ∧
      segNextWith p s = .next (s.emitFrame p chunk).complete) := by
  unfold segNextWith
  by_cases h : s.segState = .active
  · cases hc : s.chunkBytes with
    | none => exact .inr (.inl ⟨h, rfl, by simp [h]⟩)
    | some chunk => exact .inr (.inr ⟨chunk, h, rfl, by simp [h]⟩)
  · exact .inl ⟨h, by simp [h]⟩

/-! ### RSM_PUSH (R143) -/

/-- How a consumed frame can end (R146). -/
theorem State.settleFrame_cases (p : Params) (pbf : BoundaryFlag) (count : Nat) (s : State) :
    (p.maxFrames < count ∧ s.settleFrame p pbf count = s.rsmFail .limitExceeded 1) ∨
    (pbf = p.pbfLast ∧ s.settleFrame p pbf count = State.complete { s with rsmState := .sealed }) ∨
    (pbf ≠ p.pbfLast ∧ count ≤ p.maxFrames ∧ s.settleFrame p pbf count = s.complete) := by
  unfold State.settleFrame
  by_cases h1 : p.lastBeatsLimit = false ∧ p.maxFrames < count
  · exact .inl ⟨h1.2, by rw [if_pos h1]⟩
  · rw [if_neg h1]
    by_cases h2 : pbf = p.pbfLast
    · exact .inr (.inl ⟨h2, by rw [if_pos h2]⟩)
    · rw [if_neg h2]
      by_cases h3 : p.maxFrames < count
      · exact .inl ⟨h3, by rw [if_pos h3]⟩
      · exact .inr (.inr ⟨h2, by omega, by rw [if_neg h3]⟩)

/-- Everything RSM_PUSH can do once the header is decoded (R143 to R147). -/
theorem consumeFrame_cases (p : Params) (n : Nat) (h : Header) (s : State) :
    ((h.cmd ≠ s.rsmCmd ∨ h.mt ≠ p.mtResponse) ∧ consumeFrame p n h s = .next (s.rsmFail .protocolMismatch 0)) ∨
    ((p.maxChunkLimit < h.len.toNat ∨ n < p.inPayOff + h.len.toNat) ∧
      consumeFrame p n h s = .next (s.rsmFail .formatError 0)) ∨
    (p.maxReassembledSize < s.rsmLen.toNat + h.len.toNat ∧
      consumeFrame p n h s = .next (s.countFrame.rsmFail .limitExceeded 2)) ∨
    (s.inboundPayload p h.len.toNat = none ∧ consumeFrame p n h s = s.modelFault .undefinedRead) ∨
    (∃ payload, s.inboundPayload p h.len.toNat = some payload ∧ payload.length = h.len.toNat ∧
      s.rsmLen.toNat + h.len.toNat ≤ p.maxReassembledSize ∧
      consumeFrame p n h s =
        .next ((s.countFrame.appendPayload payload).settleFrame p h.pbf (s.rsmNframes.toNat + 1))) := by
  unfold consumeFrame
  by_cases h1 : h.cmd ≠ s.rsmCmd ∨ h.mt ≠ p.mtResponse
  · exact .inl ⟨h1, by rw [if_pos h1]⟩
  rw [if_neg h1]
  by_cases h2 : p.maxChunkLimit < h.len.toNat ∨ n < p.inPayOff + h.len.toNat
  · exact .inr (.inl ⟨h2, by rw [if_pos h2]⟩)
  rw [if_neg h2]
  by_cases h3 : p.maxReassembledSize < s.rsmLen.toNat + h.len.toNat
  · exact .inr (.inr (.inl ⟨h3, by rw [if_pos h3]⟩))
  rw [if_neg h3]
  cases hp : s.inboundPayload p h.len.toNat with
  | none => exact .inr (.inr (.inr (.inl ⟨rfl, rfl⟩)))
  | some payload =>
    exact .inr (.inr (.inr (.inr ⟨payload, rfl, Memory.readRange_length hp, by omega, rfl⟩)))

/-- Everything RSM_PUSH can do up to the decoded header (R143, R164). -/
theorem rsmPushWith_cases (p : Params) (n : BitVec 9) (s : State) :
    (s.rsmState ≠ .collecting ∧ rsmPushWith p n s = .next (s.raise .sequenceError)) ∨
    (s.rsmState = .collecting ∧ p.frameInCapacity < n.toNat ∧ rsmPushWith p n s = .next (s.raise .argumentError)) ∨
    (s.rsmState = .collecting ∧ n.toNat < p.minInbound ∧ rsmPushWith p n s = .next (s.rsmFail .formatError 0)) ∨
    (s.rsmState = .collecting ∧ s.inboundHeader p = none ∧ rsmPushWith p n s = s.modelFault .undefinedRead) ∨
    (∃ bytes h, s.rsmState = .collecting ∧ s.inboundHeader p = some bytes ∧ hdrDecode bytes = some h ∧
      rsmPushWith p n s = consumeFrame p n.toNat h s) := by
  unfold rsmPushWith
  by_cases h1 : s.rsmState = .collecting
  · rw [if_neg (by simp [h1])]
    by_cases h2 : p.frameInCapacity < n.toNat
    · exact .inr (.inl ⟨h1, h2, by rw [if_pos h2]⟩)
    rw [if_neg h2]
    by_cases h3 : n.toNat < p.minInbound
    · exact .inr (.inr (.inl ⟨h1, h3, by rw [if_pos h3]⟩))
    rw [if_neg h3]
    cases hb : s.inboundHeader p with
    | none => exact .inr (.inr (.inr (.inl ⟨h1, rfl, rfl⟩)))
    | some bytes =>
      have hlen : bytes.length = 4 := Memory.readRange_length hb
      cases hh : hdrDecode bytes with
      | none => rw [hdrDecode_eq_none] at hh; omega
      | some h => exact .inr (.inr (.inr (.inr ⟨bytes, h, h1, rfl, hh, by simp [hh]⟩)))
  · exact .inl ⟨h1, by rw [if_pos h1]⟩

/-! ### Host accesses (R52 to R56, R76) -/

/-- A legal word runs its command (R76). -/
theorem runWord_ok {w : Word} {i : Instr} (h : decode w = .ok i) (run : Meanings) (s : State) :
    runWord run w s = run i s := by simp [runWord, h]

/-- An illegal word raises ILLEGAL_COMMAND (R76, R78). -/
theorem runWord_error {w : Word} {e : DecodeError} (h : decode w = .error e) (run : Meanings) (s : State) :
    runWord run w s = .next (s.raise .illegalCommand) := by simp [runWord, h]

/-- A legal word runs its command, at the parameters of R7 (R76). -/
theorem execWord_ok {w : Word} {i : Instr} (h : decode w = .ok i) (s : State) : execWord w s = exec i s :=
  runWord_ok h ..

/-- An illegal word raises ILLEGAL_COMMAND, at the parameters of R7 (R76, R78). -/
theorem execWord_error {w : Word} {e : DecodeError} (h : decode w = .error e) (s : State) :
    execWord w s = .next (s.raise .illegalCommand) := runWord_error h ..

/-- A command word that completes is illegal and raises ILLEGAL_COMMAND, or is a command that completes (R76). -/
theorem execWord_cases {w : Word} {s t : State} (h : execWord w s = .next t) :
    (∃ e, decode w = .error e ∧ t = s.raise .illegalCommand) ∨ (∃ i, decode w = .ok i ∧ exec i s = .next t) := by
  cases hd : decode w with
  | ok i => exact .inr ⟨i, rfl, by rwa [execWord_ok hd] at h⟩
  | error e => exact .inl ⟨e, rfl, by simpa [execWord_error hd] using h.symm⟩

/-- Everything a host access that completes can do: return a datum, write `DIN`, run a command word, or write a cell
of `SEG_BUF` or `FRAME_IN` inside its window. -/
theorem hostAccess_cases {p : Params} {run : Meanings} {e : HostEvent} {s t : State}
    (h : hostAccess p run e s = .next t) :
    (∃ v d, t = { s with readData := v, draws := d }) ∨
    (∃ v, t = { s with din := v }) ∨
    (∃ a w, e = .wr32 a w ∧ locate p a = some (.reg .cmd) ∧ runWord run w s = .next t) ∨
    (∃ a i v, locate p a = some (.cell .segBuf i) ∧ t = { s with segBuf := s.segBuf.write i v }) ∨
    (∃ a i v, locate p a = some (.cell .frameIn i) ∧ t = { s with frameIn := s.frameIn.write i v }) := by
  cases e with
  | rd32 a =>
    simp only [hostAccess] at h
    split at h
    · next r _ =>
      cases r <;> simp only [readRegister, Host.Outcome.next.injEq] at h
      · exact absurd h (by simp)
      all_goals exact .inl ⟨_, _, h.symm⟩
    · exact absurd h (by simp)
  | rd8 a =>
    simp only [hostAccess] at h
    split at h
    · simp only [readCell] at h
      split at h
      · exact .inl ⟨_, _, (Host.Outcome.next.inj h).symm⟩
      · exact .inl ⟨_, _, (Host.Outcome.next.inj h).symm⟩
    · exact absurd h (by simp)
  | wr32 a w =>
    simp only [hostAccess] at h
    split at h
    · next r hr =>
      cases r <;> simp only [writeRegister, State.modelFault_ne_next] at h
      · exact .inr (.inr (.inl ⟨a, w, rfl, hr, h⟩))
      · exact .inr (.inl ⟨w, (Host.Outcome.next.inj h).symm⟩)
    · exact absurd h (by simp)
  | wr8 a v =>
    simp only [hostAccess] at h
    split at h
    · next b i hb =>
      cases b <;> simp only [writeCell, State.modelFault_ne_next] at h
      · exact .inr (.inr (.inr (.inl ⟨a, i, v, hb, (Host.Outcome.next.inj h).symm⟩)))
      · exact .inr (.inr (.inr (.inr ⟨a, i, v, hb, (Host.Outcome.next.inj h).symm⟩)))
    · exact absurd h (by simp)
  | otherWidth bits a => exact absurd h (by simp [hostAccess])
  | assertReset => exact .inl ⟨s.readData, s.draws, (Host.Outcome.next.inj h).symm⟩
  | releaseReset => exact .inl ⟨s.readData, s.draws, (Host.Outcome.next.inj h).symm⟩

/-- A cell that an address names lies inside its buffer (R51). -/
theorem locate_cell {p : Params} {a : HostAddr} {b : Buf} {i : Nat} (h : locate p a = some (.cell b i)) :
    i < b.capacity p := by
  unfold locate at h
  simp only at h
  split at h
  · simp at h
  · rw [Option.map_eq_some_iff] at h
    obtain ⟨b', hb', heq⟩ := h
    have hold := List.find?_some hb'
    simp only [Place.cell.injEq] at heq
    obtain ⟨rfl, rfl⟩ := heq
    simp only [Buf.holds, Bool.and_eq_true, decide_eq_true_eq] at hold
    omega

/-- Only address 0 names `CMD` (R51). -/
theorem locate_cmd {p : Params} {a : HostAddr} (h : locate p a = some (.reg .cmd)) : a = 0x0000 := by
  unfold locate at h
  simp only at h
  split at h
  · next hr =>
    obtain ⟨h4, hlt⟩ := hr
    have hk : a.toNat / 4 < 20 := hlt
    have h0 : a.toNat / 4 = 0 := by
      generalize a.toNat / 4 = k at h hk
      interval_cases k <;> first | rfl | simp [registerMap] at h
    exact BitVec.eq_of_toNat_eq (by simp; omega)
  · rw [Option.map_eq_some_iff] at h
    obtain ⟨b, _, hb⟩ := h
    cases hb

/-- Every cell of a buffer has its address (R51). -/
theorem locate_base_add (b : Buf) {i : Nat} (h : i < b.capacity Config.params) :
    locate Config.params (BitVec.ofNat 16 (b.base + i)) = some (.cell b i) := by
  have hnat : ∀ n, n < 65536 → (BitVec.ofNat 16 n).toNat = n := fun n hn => by
    rw [BitVec.toNat_ofNat]; exact Nat.mod_eq_of_lt hn
  have hreg : registerMap.length = 20 := rfl
  have hwin : ∀ b' : Buf, b'.holds Config.params (b.base + i) = decide (b' = b) := fun b' => by
    have hb : b'.base + b'.capacity Config.params ≤ b.base ∨ b.base + b.capacity Config.params ≤ b'.base ∨ b' = b := by
      cases b <;> cases b' <;> decide
    simp only [Buf.holds]
    obtain hb | hb | rfl := hb
    · have : b' ≠ b := fun e => by subst e; omega
      simp [this]; omega
    · have : b' ≠ b := fun e => by subst e; omega
      simp [this]; omega
    · simp; omega
  have hrange : 4096 ≤ b.base + i ∧ b.base + i < 65536 := by
    cases b <;> simp [Buf.base, Buf.capacity, Config.params] at h ⊢ <;> omega
  unfold locate
  rw [hnat _ hrange.2]
  dsimp only
  rw [hreg, if_neg (by omega)]
  simp only [List.find?_cons, List.find?_nil, hwin]
  cases b <;> simp

/-! ### A step (R20, R60, R180) -/

/-- A step that makes a host access: reset released, no model fault standing. -/
theorem step_about {s : State} {e : HostEvent} {rest : List HostEvent} (h : s.about e rest) (ha : e ≠ .assertReset)
    (hr : e ≠ .releaseReset) : step s = hostAccess Config.params exec e (s.taking rest) := by
  obtain ⟨hp, hin, hf⟩ := h
  unfold step hostStep
  rw [hp]
  cases e <;> first | exact absurd rfl ha | exact absurd rfl hr | simp [hostEvent, hin, hf, State.taking]

/-- Everything a step that completes can do. -/
theorem step_cases {s t : State} (h : step s = .next t) :
    (s.pending = [] ∧ s.faulted = none ∧ t = s) ∨
    ∃ e rest, s.pending = e :: rest ∧
      ((e = .assertReset ∧ t = { s with pending := rest, readData := none, resetIn := true }) ∨
       (e = .releaseReset ∧ s.resetIn = true ∧
          t = State.afterReset Config.params { s with pending := rest, readData := none }) ∨
       ((s.resetIn = true ∨ e = .releaseReset) ∧ t = { s with pending := rest, readData := none }) ∨
       (s.resetIn = false ∧ s.faulted = none ∧
          hostAccess Config.params exec e { s with pending := rest, readData := none } = .next t)) := by
  unfold step hostStep at h
  split at h
  · next hp =>
    unfold idle at h
    split at h
    · cases h
    · next hf => exact .inl ⟨hp, hf, (Host.Outcome.next.inj h).symm⟩
  · next e rest hp =>
    refine .inr ⟨e, rest, hp, ?_⟩
    unfold hostEvent at h
    split at h
    · exact .inl ⟨rfl, (Host.Outcome.next.inj h).symm⟩
    · by_cases hr : s.resetIn = true
      · exact .inr (.inl ⟨rfl, hr, by simpa [hr] using h.symm⟩)
      · exact .inr (.inr (.inl ⟨.inr rfl, by simpa [hr] using h.symm⟩))
    · split at h
      · next hr => exact .inr (.inr (.inl ⟨.inl hr, (Host.Outcome.next.inj h).symm⟩))
      · next hr =>
        split at h
        · cases h
        · next hf => exact .inr (.inr (.inr ⟨by simpa using hr, hf, h⟩))

/-! ### The record (R42) -/

/-- What stands beside the record changes no cell. -/
theorem State.cell_congr {s t : State} (h : s.toBlock = t.toBlock) (b : Buf) (i : Nat) : s.cell b i = t.cell b i := by
  cases b <;> simp only [State.cell, State.buffer, h]

/-- A buffer in canonical form and inside its capacity is its cells, as R42 writes them. -/
theorem buffer_eq_of_cell {s t : State} (hs : BuffersOk s) (ht : BuffersOk t) {b : Buf}
    (h : ∀ i : Fin (b.capacity Config.params), s.cell b i.val = t.cell b i.val) : s.buffer b = t.buffer b := by
  refine Memory.eq_of_read (hs.wf b) (ht.wf b) fun i => ?_
  by_cases hi : i < b.capacity Config.params
  · exact h ⟨i, hi⟩
  · exact (hs.inside b i (by omega)).trans (ht.inside b i (by omega)).symm

/-- Taking a host action off the list touches nothing of the block. -/
@[simp] theorem State.taking_toBlock (rest : List HostEvent) (s : State) : (s.taking rest).toBlock = s.toBlock := rfl

@[simp] theorem State.returning_toBlock (v : Word) (s : State) : (s.returning v).toBlock = s.toBlock := rfl

/-! ### The block at any parameters (R6) -/

/-- At the values of R7 the commands are `exec`. -/
@[simp] theorem execWith_params : execWith Config.params = exec := by
  funext i s
  cases i <;> rfl

@[simp] theorem execWordWith_params : execWordWith Config.params = execWord := by
  funext w s
  rw [execWordWith, execWith_params, execWord]

/-- At the values of R7 a step is `step`. -/
@[simp] theorem stepWith_params : stepWith Config.params = step := by
  funext s
  rw [stepWith, execWith_params, step]

end Sys2Proof.Machine
end

