-- ==== Sys2Proof/Laws/PerInstr.lean ====
section
/-! SUPPORT. Statements made for every command: the family EncodeOpcode says that the encoder writes the command's own
opcode into [31:28] (R70, R77). -/

namespace Sys2Proof.Laws.EncodeOpcode

/-- The encoded word's opcode field is the command's opcode (R70, R77). -/
def Statement (i : Instr) : Prop := opField (encode i) = i.opcode

theorem hdrEnc (mt : MessageType) (pbf : BoundaryFlag) (cmd : CommandId) (len : Byte) :
    Statement (.hdrEnc mt pbf cmd len) := opField_formatH ..
theorem hdrDec (n : BitVec 9) : Statement (.hdrDec n) := opField_formatK ..
theorem setMaxchunk (n : BitVec 9) : Statement (.setMaxchunk n) := opField_formatK ..
theorem segStart (mt : MessageType) (cmd : CommandId) (len : BitVec 10) : Statement (.segStart mt cmd len) :=
  opField_formatS ..
theorem segNext : Statement .segNext := opField_formatN _
theorem segFail : Statement .segFail := opField_formatN _
theorem rsmStart (cmd : CommandId) : Statement (.rsmStart cmd) := opField_formatC ..
theorem rsmPush (n : BitVec 9) : Statement (.rsmPush n) := opField_formatK ..

end Sys2Proof.Laws.EncodeOpcode
end

