-- ==== Sys2Proof/Tests/Slice0.lean ====
section
/-! SUPPORT. The model's own tests: ill-formed terms that the checks refuse, words written out from the spec's
encodings, the vectors of 95_test_vectors.md on single steps, and for every statement with hypotheses a state and
operands that meet them. Expected values are the spec's. -/

namespace Sys2Proof.Tests
open Sys2Proof.Machine

/-! ### Helpers -/

/-- What a completed transition's state satisfies; false for a fault. -/
def nextIs (o : Host.Outcome State Fault Refusal) (f : State → Bool) : Bool :=
  match o with
  | .next t => f t
  | _ => false

/-- The transition ends in UndefinedRead, leaving exactly this state. -/
def undefIs (o : Host.Outcome State Fault Refusal) (t : State) : Bool :=
  match o with
  | .fault (.undefinedRead u) => decide (u = t)
  | _ => false

/-- The transition ends in HostBusMisuse, leaving exactly this state. -/
def misuseIs (o : Host.Outcome State Fault Refusal) (t : State) : Bool :=
  match o with
  | .fault (.hostBusMisuse u) => decide (u = t)
  | _ => false

/-- A message of three bytes AA BB CC at chunk size 1 just started, as in VS9: COMMAND, command_id 0x0A5. -/
def segThree : State :=
  { State.reset with
    segState := .active, segMt := 1, segCmd := 0x0A5, segLen := 3, segChunk := 1, segMaxChunk := 1,
    segBuf := [(0, 0xAA), (1, 0xBB), (2, 0xCC)] }

/-- VR12: RSM_START 0x0A5, then VR5's frame with `FRAME_IN[0..4)` and the CRC never written. -/
def pushFive : State :=
  { State.reset with
    rsmState := .collecting, rsmCmd := 0x0A5,
    frameIn := [(4, 0x40), (5, 0xA5), (6, 0x00), (7, 0x05), (8, 0x11), (9, 0x22), (10, 0x33), (11, 0x44), (12, 0x55)] }

/-- An inbound frame with an empty payload and this first header byte, ready to be pushed. -/
def pushEmpty (b0 : Byte) : State :=
  { State.reset with
    rsmState := .collecting, rsmCmd := 0x0A5, frameIn := [(4, b0), (5, 0xA5), (6, 0x00), (7, 0x00)] }

/-- The host is about to make this event on a reset block. -/
def hostAt (e : HostEvent) : State := { State.reset with pending := [e] }

/-! ### What the checks refuse -/

theorem test_source_too_wide :
    ([.hdrEnc 8 0 0 0, .hdrEnc 0 2 0 0, .hdrEnc 0 0 4096 0, .hdrEnc 0 0 0 256, .hdrDec 512, .setMaxchunk 512,
      .segStart 8 0 0, .segStart 0 4096 0, .segStart 0 0 1024, .rsmStart 4096, .rsmPush 512] : List Source).all
      (fun c => !c.wellFormed && decide (assemble c = none)) = true := by decide

theorem test_source_at_the_edge :
    ([.hdrEnc 7 1 4095 255, .hdrDec 511, .segStart 7 4095 1023, .rsmStart 4095, .segNext] : List Source).all
      (fun c => c.wellFormed) = true := by decide

/-- The illegal words of 95_test_vectors.md section 3.4. -/
theorem test_illegal_words :
    ([0x00000000, 0x90000000, 0xF0000000, 0x10000001, 0x20000200, 0x41000000, 0x40000400, 0x50000001, 0x60800000,
      0x71000000, 0x70000001, 0x80000200, 0x30000200] : List Word).all
      (fun w => !wordLegal w && nextIs (execWord w segThree) (fun t => decide (t = { segThree with lastCode := 7 }))) =
      true := by decide

theorem test_decode_names_the_reason :
    decode 0x90000000 = .error .reservedOpcode ∧ decode 0x14123051 = .error .reservedBits := by decide

theorem test_params_legal : Config.params.wellFormed = true := by decide

theorem test_params_refused :
    ([{ Config.params with maxChunkReset := 0 }, { Config.params with maxChunkReset := 252 },
      { Config.params with maxChunkLimit := 252, frameOutCapacity := 256, linkFrame := 256 },
      { Config.params with maxFrames := 0 }, { Config.params with maxFrames := 15 },
      { Config.params with minInbound := 9 }, { Config.params with inHdrOff := 5 },
      { Config.params with rsmCapacity := 699 },
      { Config.params with maxReassembledSize := 1024, rsmCapacity := 1024 },
      { Config.params with segCapacity := 1024 }, { Config.params with frameInCapacity := 512 },
      { Config.params with frameOutCapacity := 254 }, { Config.params with linkFrame := 254 },
      { Config.params with segCapacity := 0x1001 }, { Config.params with frameInCapacity := 0x1001 },
      { Config.params with maxChunkLimit := 0xFFD, frameOutCapacity := 0x1001, linkFrame := 0x1001 },
      { Config.params with rsmCapacity := 0x1001, maxReassembledSize := 0x1001 }] : List Params).all
      (fun p => !p.wellFormed) = true := by decide

/-! ### Words written out from the spec's encodings (R71 to R77; VE1, VE2, VD5, VW2, VW5, VW7, VW8, section 4.3) -/

theorem test_decode_hdrEnc : decode 0x1FFFFFF0 = .ok (.hdrEnc 7 1 0xFFF 255) ∧
    decode 0b0001_010_0_000100100011_00000101_0000 = .ok (.hdrEnc 2 0 0x123 5) := by decide
theorem test_decode_hdrDec : decode 0b0010_0000000000000000000_111111111 = .ok (.hdrDec 511) := by decide
theorem test_decode_setMaxchunk : decode 0b0011_0000000000000000000_011001000 = .ok (.setMaxchunk 200) := by decide
theorem test_decode_segStart :
    decode 0b0100_010_0_000010100101_00_0100101100 = .ok (.segStart 2 0x0A5 300) := by decide
theorem test_decode_segNext : decode 0b0101_0000000000000000000000000000 = .ok .segNext := by decide
theorem test_decode_segFail : decode 0b0110_0000000000000000000000000000 = .ok .segFail := by decide
theorem test_decode_rsmStart : decode 0b0111_0000_000100100011_000000000000 = .ok (.rsmStart 0x123) := by decide
theorem test_decode_rsmPush : decode 0b1000_0000000000000000000_100000100 = .ok (.rsmPush 260) := by decide

/-- The words of VW1, VW4 and VE4, encoded. -/
theorem test_encode_words :
    encode (.segStart 1 0x0A5 300) = 0x420A512C ∧ encode (.segStart 1 0x7FF 600) = 0x427FF258 ∧
    encode (.hdrEnc 1 1 0x800 251) = 0x13800FB0 := by decide

theorem test_decodeTableWord :
    decodeTableWord 32 0x80000000 = some (.rsmPush 0) ∧ decodeTableWord 32 0x50000000 = some .segNext ∧
    decodeTableWord 32 0 = none := by decide

/-- Text as P1, VW1 and R86 write it. -/
theorem test_assemble_lines :
    assembleLine Config.params "HDR_ENC RESPONSE, NOT_LAST, 0x123, 200" = some 0x15123C80 ∧
    assembleLine Config.params "SEG_START COMMAND, 0x0A5, 300" = some 0x420A512C ∧
    assembleLine Config.params "SEG_FAIL" = some 0x60000000 ∧ assembleLine Config.params "RSM_PUSH 512" = none := by
  decide

/-! ### Vectors, one step each -/

/-- VE2 and VE8. -/
theorem test_hdrEnc :
    nextIs (exec (.hdrEnc 7 1 0xFFF 255) State.reset) (fun t => t.hdrOut == 0xFFFF00FF && t.statusWord == 0) = true ∧
    nextIs (exec (.hdrEnc 5 1 0x100 0x80) State.reset) (fun t => t.hdrOut == 0xB1000080) = true := by decide

/-- VD2 and VD8: a failing decode keeps what the one before it left. -/
theorem test_hdrDec :
    nextIs (exec (.hdrDec 4) { State.reset with din := 0xFFFF7E00 })
      (fun t => t.decMt == 7 && t.decPbf == 1 && t.decCmd == 0xFFF && t.decLen == 0 && t.decRsv == 0x7E) = true ∧
    nextIs (exec (.hdrDec 2) { State.reset with din := 0x41230005, decMt := 7, decRsv := 0x7E })
      (fun t => t.decMt == 7 && t.decRsv == 0x7E && t.statusWord == 1) = true := by decide

/-- VS14, VS15, VS16 and VS22. -/
theorem test_setMaxchunk :
    nextIs (exec (.setMaxchunk 252) State.reset) (fun t => t.segMaxChunk == 251 && t.statusWord == 6) = true ∧
    nextIs (exec (.setMaxchunk 0) State.reset) (fun t => t.segMaxChunk == 251 && t.statusWord == 6) = true ∧
    nextIs (exec (.setMaxchunk 1) State.reset) (fun t => t.segMaxChunk == 1 && t.statusWord == 0) = true ∧
    nextIs (exec (.setMaxchunk 100) { segThree with segState := .error, segErr := 4 })
      (fun t => t.segMaxChunk == 100 && t.segChunk == 1 && t.statusWord == 0x430) = true := by decide

/-- VS12, VS13 and VS24. -/
theorem test_segStart :
    nextIs (exec (.segStart 1 0x0A5 700) State.reset)
      (fun t => t.segLen == 700 && t.segChunk == 251 && t.statusWord == 0x10) = true ∧
    nextIs (exec (.segStart 1 0x0A5 701) { segThree with segOff := 1 })
      (fun t => t.segLen == 3 && t.segOff == 1 && t.statusWord == 0x16) = true := by decide

/-- VS9's first frame, 30 A5 00 01, and its last, 20 A5 00 01; VS1's empty message. -/
theorem test_segNext_frames :
    nextIs (exec .segNext segThree) (fun t => decide (t.output = some [0x30, 0xA5, 0x00, 0x01, 0xAA]) &&
      t.segOff == 1 && t.statusWord == 0x10) = true ∧
    nextIs (exec .segNext { segThree with segOff := 2, segNframes := 2 })
      (fun t => decide (t.output = some [0x20, 0xA5, 0x00, 0x01, 0xCC]) && t.segNframes == 3 && t.statusWord == 0x20) =
      true ∧
    nextIs (exec .segNext { segThree with segLen := 0 })
      (fun t => decide (t.output = some [0x20, 0xA5, 0x00, 0x00]) && t.statusWord == 0x20) = true := by decide

/-- VS17 and VS23 (a byte of the chunk never written). -/
theorem test_segNext_stops :
    nextIs (exec .segNext State.reset) (fun t => t.statusWord == 5) = true ∧
    undefIs (exec .segNext { segThree with segBuf := [] })
      { segThree with segBuf := [], faulted := some .undefinedRead } = true := by decide

/-- VS18, VS19 and VS20. -/
theorem test_segFail :
    nextIs (exec .segFail State.reset) (fun t => t.statusWord == 5) = true ∧
    nextIs (exec .segFail segThree) (fun t => t.statusWord == 0x15) = true ∧
    nextIs (exec .segFail { segThree with segState := .done, segOff := 3, segNframes := 3 })
      (fun t => t.segOff == 3 && t.segNframes == 3 && t.statusWord == 0x430) = true := by decide

/-- VR14d. -/
theorem test_rsmStart :
    nextIs (exec (.rsmStart 0x0A5) { pushFive with rsmLen := 1, rsmNframes := 1, rsmBuf := [(0, 7)] })
      (fun t => t.rsmLen == 0 && t.rsmNframes == 0 && decide (t.rsmBuf = [(0, 7)]) && t.statusWord == 0x40) = true := by
  decide

/-- VR12 (VR5's frame), VR16 and VR17 on their last push. -/
theorem test_rsmPush_accepts :
    nextIs (exec (.rsmPush 14) pushFive)
      (fun t => decide (t.result = some [0x11, 0x22, 0x33, 0x44, 0x55]) && t.rsmNframes == 1 && t.statusWord == 0x80) =
      true ∧
    nextIs (exec (.rsmPush 8) { pushEmpty 0x40 with rsmNframes := 10 }) (fun t => t.statusWord == 0x80) = true ∧
    nextIs (exec (.rsmPush 8) { pushEmpty 0x50 with rsmNframes := 10 })
      (fun t => t.rsmNframes == 11 && t.statusWord == 0x130C3) = true := by decide

/-- VR1, VR4, VR6, VR10, VR14a, VR21 on its last push, VR13 and VR18. -/
theorem test_rsmPush_fails :
    nextIs (exec (.rsmPush 7) pushFive) (fun t => t.statusWord == 0x10C1) = true ∧
    nextIs (exec (.rsmPush 10) (pushEmpty 0x20)) (fun t => t.statusWord == 0x20C2) = true ∧
    nextIs (exec (.rsmPush 12) pushFive) (fun t => t.rsmNframes == 0 && t.statusWord == 0x10C1) = true ∧
    nextIs (exec (.rsmPush 265) pushFive) (fun t => t.statusWord == 0x46) = true ∧
    nextIs (exec (.rsmPush 14) State.reset) (fun t => t.statusWord == 5) = true ∧
    nextIs (exec (.rsmPush 14) { pushFive with rsmLen := 696, rsmNframes := 2 })
      (fun t => t.rsmLen == 696 && t.rsmNframes == 3 && t.statusWord == 0x230C3) = true ∧
    undefIs (exec (.rsmPush 14) { pushFive with frameIn := pushFive.frameIn.erase (10, 0x33) })
      { pushFive with frameIn := pushFive.frameIn.erase (10, 0x33), faulted := some .undefinedRead } = true ∧
    nextIs (rsmPushWith { Config.params with lastBeatsLimit := false } 8 { pushEmpty 0x40 with rsmNframes := 10 })
      (fun t => t.statusWord == 0x130C3) = true := by decide

/-! ### The host window and reset (R51 to R54, R180) -/

/-- P1's reads and writes; a write to STATUS and a read of CMD are misuses. -/
theorem test_host_accesses :
    nextIs (step { hostAt (.rd32 0x000C) with hdrOut := 0x512300C8 }) (fun t => t.readData == some 0x512300C8) = true ∧
    nextIs (step (hostAt (.wr32 0x0008 0xFFFF7E00))) (fun t => t.din == 0xFFFF7E00) = true ∧
    nextIs (step (hostAt (.wr8 0x12BB 7))) (fun t => decide (t.cell .segBuf 699 = some 7)) = true ∧
    misuseIs (step (hostAt (.wr32 0x0004 0))) { State.reset with faulted := some .hostBusMisuse } = true ∧
    misuseIs (step (hostAt (.rd32 0x0000))) { State.reset with faulted := some .hostBusMisuse } = true := by decide

/-- A faulted state stays stopped until reset is released. -/
theorem test_faulted_stays :
    misuseIs (step { hostAt (.rd32 0x0004) with faulted := some .hostBusMisuse })
      { State.reset with faulted := some .hostBusMisuse } = true ∧
    nextIs (step { hostAt .releaseReset with faulted := some .hostBusMisuse, resetIn := true, din := 3 })
      (fun t => decide (t = State.reset)) = true := by decide

/-- withFetchWord: from reset the very next step runs the command. -/
theorem test_withFetchWord :
    nextIs (step (State.reset.withFetchWord 32 0x420A512C)) (fun t => t.segLen == 300 && t.statusWord == 0x10) = true := by
  decide

/-! ### Witnesses: a state and operands that meet each statement's hypotheses -/

theorem witness_EncodeDecodeAgree : decode 0x14123050 = .ok (.hdrEnc 2 0 0x123 5) := by decide

theorem witness_DecoderGivesEveryWordOneVerdict :
    decode 0x50000000 = .ok .segNext ∧ decode 0x50000001 = .error .reservedBits := by decide

theorem witness_IllegalWordsAndOutOfRangeOperands :
    opField 0 = 0 ∧ 9 ≤ (opField 0x90000000).toNat ∧
    (opField 0x10000001 = 1 ∧ BitVec.extractLsb' 0 4 (0x10000001 : Word) ≠ 0) ∧
    (opField 0x80000200 = 8 ∧ BitVec.extractLsb' 9 19 (0x80000200 : Word) ≠ 0) ∧
    (opField 0x41000000 = 4 ∧ BitVec.extractLsb' 24 1 (0x41000000 : Word) ≠ 0) ∧
    (opField 0x60800000 = 6 ∧ BitVec.extractLsb' 0 28 (0x60800000 : Word) ≠ 0) ∧
    (opField 0x70000001 = 7 ∧ BitVec.extractLsb' 0 12 (0x70000001 : Word) ≠ 0) ∧
    (opField 0x800001FF = 8 ∧ BitVec.extractLsb' 9 19 (0x800001FF : Word) = 0) ∧
    Config.params.maxChunkLimit < (252#9).toNat ∧ Config.params.segCapacity < (701#10).toNat ∧
    pushFive.rsmState = .collecting ∧ Config.params.frameInCapacity < (265#9).toNat := by decide

theorem witness_StepRunsTheCommandWritten :
    (hostAt (.wr32 0x0000 0x50000000)).about (.wr32 0x0000 0x50000000) [] ∧ decode 0x50000000 = .ok .segNext ∧
    wordLegal 0x50000000 = true ∧ wordLegal 0x50000001 = false := ⟨⟨rfl, rfl, rfl⟩, by decide, by decide, by decide⟩

theorem witness_AssemblerKeepsOperands :
    (Source.rsmPush 511).wellFormed = true ∧ (Source.rsmPush 512).wellFormed = false := by decide

theorem witness_HeaderRoundTrip :
    hdrDecode [0x41, 0x23, 0x7E, 0x05] = some ⟨2, 0, 0x123, 5, 0x7E⟩ ∧ hdrEncode 2 0 0x123 5 = hdrEncode 2 0 0x123 5 := by
  decide

theorem witness_HdrEncCompletes : (1#4 : BitVec 4) ≠ 0 := by decide

theorem witness_HdrDecCompletes : 4 ≤ (4#9).toNat ∧ (3#9).toNat < 4 ∧ (1#19 : BitVec 19) ≠ 0 := by decide

theorem witness_HeaderRoundTripThroughRegisters :
    nextIs (exec (.hdrDec 511) State.reset) (fun t => t.lastCode == 0) = true := by decide

theorem witness_SetMaxchunkCompletes :
    (1 ≤ (251#9).toNat ∧ (251#9).toNat ≤ Config.params.maxChunkLimit) ∧
    (1 ≤ (1#9).toNat ∧ (1#9).toNat ≤ Config.params.maxChunkLimit) ∧ Config.params.maxChunkLimit < (252#9).toNat := by
  decide

theorem witness_SegStartCompletes :
    (700#10).toNat ≤ Config.params.segCapacity ∧ Config.params.segCapacity < (701#10).toNat ∧
    ((0#1 : BitVec 1) ≠ 0 ∨ (2#2 : BitVec 2) ≠ 0) := by decide

theorem witness_SegNextEmitsTheNextFrame :
    (1 = min segThree.segChunk.toNat (segThree.segLen.toNat - segThree.segOff.toNat) ∧
      (false = true ↔ segThree.segOff.toNat + 1 = segThree.segLen.toNat) ∧
      segThree.segState = .active ∧ ∀ k, k < 1 → (segThree.cell .segBuf (segThree.segOff.toNat + k)).isSome) ∧
    (∃ k, k < 1 ∧ State.cell { segThree with segBuf := [] } .segBuf (segThree.segOff.toNat + k) = none) ∧
    State.reset.segState ≠ .active := ⟨by decide, ⟨0, by decide⟩, by decide⟩

theorem witness_SegFailCompletes :
    (segThree.segState = .active ∧ ({ segThree with segNframes := 1 } : State).segNframes ≠ 0) ∧ segThree.segNframes = 0 ∧
    nextIs (exec (.segStart 0 0 0) { segThree with segState := .error }) (fun t => decide (t.segState ≠ .error)) = true := by
  decide

theorem witness_ChunksPartitionThePayload :
    (segment Config.params [1, 2, 3] 2 = [([1, 2], 1), ([3], 0)] ∧ 1 ≤ 2 ∧ 2 ≤ 251) ∧
    segment Config.params [] 251 = [([], 0)] ∧ segment Config.params [1, 2] 1 = [([1], 1), ([2], 0)] := by decide

theorem witness_SegmenterEmitsTheSegmentation :
    ([0xAA, 0xBB, 0xCC] : List Byte).length = (3#10).toNat ∧ (3#10).toNat ≤ Config.params.segCapacity ∧
    1 ≤ segThree.segMaxChunk.toNat ∧ segThree.segBuf.readRange 0 3 = some [0xAA, 0xBB, 0xCC] := by decide

theorem witness_EmittedBytesNoLongerMatter :
    (∀ j, ({ segThree with segOff := 2 } : State).segOff.toNat ≤ j →
      Memory.read [(2, 0xCC)] j = segThree.cell .segBuf j) ∧
    nextIs (exec .segNext { segThree with segOff := 2 }) (fun _ => true) = true := by
  refine ⟨fun j hj => ?_, by decide⟩
  have hj : 2 ≤ j := hj
  simp [State.cell, State.buffer, segThree, Memory.read, show ¬0 = j by omega, show ¬1 = j by omega]

theorem witness_RsmStartCompletes : (0#4 : BitVec 4) ≠ 0 ∨ (1#12 : BitVec 12) ≠ 0 := by decide

theorem pushFive_accepts : pushFive.accepts 14 0 0 5 := ⟨by decide, by decide, by decide, by decide, by decide⟩

theorem witness_RsmPushConsumesAFrame :
    pushFive.accepts 13 0 0 5 ∧ pushFive.rsmLen.toNat + (5#8).toNat ≤ Config.params.maxReassembledSize ∧
    (0#1 : BoundaryFlag) = Config.params.pbfLast ∧ ∀ k, k < 5 → (pushFive.cell .frameIn (8 + k)).isSome :=
  ⟨⟨by decide, by decide, by decide, by decide, by decide⟩, by decide, by decide, by decide⟩

theorem witness_RsmPushOutOfSequenceOrRange :
    State.reset.rsmState ≠ .collecting ∧ pushFive.rsmState = .collecting ∧
    Config.params.frameInCapacity < (265#9).toNat := by decide

theorem witness_ProtocolMismatchFails :
    (pushEmpty 0x20).rsmState = .collecting ∧ (264#9).toNat ≤ Config.params.frameInCapacity ∧
    Config.params.minInbound ≤ (8#9).toNat ∧ (7#9).toNat < Config.params.minInbound ∧
    (pushEmpty 0x20).headerIs 0x20 0xA5 0 0 ∧ BitVec.extractLsb' 5 3 (0x20#8) ≠ Config.params.mtResponse :=
  ⟨by decide, by decide, by decide, by decide, ⟨by decide, by decide, by decide, by decide⟩, by decide⟩

theorem witness_MalformedFramesFail :
    pushFive.rsmState = .collecting ∧ (7#9).toNat < Config.params.minInbound ∧
    Config.params.minInbound ≤ (12#9).toNat ∧
    pushFive.headerIs (acceptedByte0 0 pushFive.rsmCmd) (pushFive.rsmCmd.extractLsb' 0 8) 0 5 ∧
    (12#9).toNat < Config.params.inPayOff + (5#8).toNat ∧ Config.params.maxChunkLimit < (252#8).toNat :=
  ⟨by decide, by decide, by decide, ⟨by decide, by decide, by decide, by decide⟩, by decide, by decide⟩

theorem witness_SizeLimitFails :
    State.accepts { pushFive with rsmLen := 696 } 14 0 0 5 ∧
    Config.params.maxReassembledSize < ({ pushFive with rsmLen := 696 } : State).rsmLen.toNat + (5#8).toNat ∧
    ({ pushFive with rsmLen := 695 } : State).rsmLen.toNat + (5#8).toNat = Config.params.maxReassembledSize :=
  ⟨⟨by decide, by decide, by decide, by decide, by decide⟩, by decide, by decide⟩

/-- The header of VR5's frame, decoded. -/
def headerFive : Header := { mt := 2, pbf := 0, cmd := 0x0A5, len := 5, rsv := 0 }

theorem witness_SealingAndFrameLimit :
    (headerFive.cmd = pushFive.rsmCmd ∧ headerFive.mt = Config.params.mtResponse ∧
      headerFive.len.toNat ≤ Config.params.maxChunkLimit ∧ Config.params.inPayOff + headerFive.len.toNat ≤ 13 ∧
      pushFive.rsmLen.toNat + headerFive.len.toNat ≤ Config.params.maxReassembledSize ∧
      pushFive.inboundPayload Config.params headerFive.len.toNat = some [0x11, 0x22, 0x33, 0x44, 0x55]) ∧
    (headerFive.pbf = Config.params.pbfLast ∧ Config.params.lastBeatsLimit = true) ∧
    (Header.pbf { headerFive with pbf := 1 } ≠ Config.params.pbfLast ∧
      Config.params.maxFrames < ({ pushFive with rsmNframes := 10 } : State).rsmNframes.toNat + 1) ∧
    Params.lastBeatsLimit { Config.params with lastBeatsLimit := false } = false ∧
    ({ pushFive with rsmNframes := 9 } : State).rsmNframes.toNat + 1 ≤ Config.params.maxFrames := by decide

theorem witness_RsmPushStopsOnUndefinedBytes :
    (∃ k, k < 4 ∧ State.cell { pushFive with frameIn := [(4, 0x40), (5, 0xA5), (6, 0)] } .frameIn (4 + k) = none) ∧
    State.accepts { pushFive with frameIn := pushFive.frameIn.erase (10, 0x33) } 13 0 0 5 ∧
    ∃ k, k < 5 ∧ State.cell { pushFive with frameIn := pushFive.frameIn.erase (10, 0x33) } .frameIn (8 + k) = none :=
  ⟨⟨3, by decide⟩, ⟨by decide, by decide, by decide, by decide, by decide⟩, ⟨2, by decide⟩⟩

theorem witness_PushReadsOnlyHeaderAndPayload :
    (∀ j, 4 ≤ j → j < 8 → Memory.read ((0, 0xB0) :: pushFive.frameIn) j = pushFive.cell .frameIn j) ∧
    (∀ len, pushFive.cell .frameIn 7 = some len → ∀ j, 8 ≤ j → j < 8 + len.toNat →
      Memory.read ((0, 0xB0) :: pushFive.frameIn) j = pushFive.cell .frameIn j) ∧
    nextIs (exec (.rsmPush 14) pushFive) (fun _ => true) = true ∧ (pushFive.cell .frameIn 6).isSome := by
  refine ⟨fun j h _ => ?_, fun _ _ j h _ => ?_, by decide, by decide⟩ <;>
    simp [Memory.read, show ¬0 = j by omega, State.cell, State.buffer]

/-- A state in the midst of a message and of a reassembly meets the invariant. -/
theorem segThree_inv : Inv segThree where
  buffers := ⟨fun b => by cases b <;> decide, fun b i h => by
    cases b
    · have h : 700 ≤ i := h
      simp [State.cell, State.buffer, segThree, Memory.read, show ¬0 = i by omega, show ¬1 = i by omega,
        show ¬2 = i by omega]
    all_goals rfl⟩
  segmenter := ⟨by decide, by decide, by decide, by decide, by decide, by decide, by decide, by decide, by decide,
    by decide, by decide⟩
  reassembler := ⟨by decide, by decide, by decide, by decide, by decide, by decide, by decide⟩
  code := ⟨.ok, by decide, by decide⟩
  reserved := by decide

theorem pushFive_inv : Inv pushFive where
  buffers := ⟨fun b => by cases b <;> decide, fun b i h => by
    cases b
    case frameIn =>
      have h : 264 ≤ i := h
      simp [State.cell, State.buffer, pushFive, Memory.read, show ¬4 = i by omega, show ¬5 = i by omega,
        show ¬6 = i by omega, show ¬7 = i by omega, show ¬8 = i by omega, show ¬9 = i by omega,
        show ¬10 = i by omega, show ¬11 = i by omega, show ¬12 = i by omega]
    all_goals rfl⟩
  segmenter := ⟨by decide, by decide, by decide, by decide, by decide, by decide, by decide, by decide, by decide,
    by decide, by decide⟩
  reassembler := ⟨by decide, by decide, by decide, by decide, by decide, by decide, by decide⟩
  code := ⟨.ok, by decide, by decide⟩
  reserved := by decide

theorem witness_PushRefinesReassembly :
    Inv pushFive ∧ pushFive.represents 0x0A5 (.collecting [] 0) ∧
    ([0, 0, 0, 0, 0x40, 0xA5, 0, 0] : List Byte).length ≤ Config.params.frameInCapacity :=
  ⟨pushFive_inv, ⟨by decide, by decide, by decide, by decide⟩, by decide⟩

theorem witness_ReassemblerComputesReassembly :
    Inv pushFive ∧ (∀ f ∈ ([[0, 0, 0, 0, 0x50, 0xA5, 0, 1, 9], [0, 0, 0, 0, 0x40, 0xA5, 0, 0]] : List (List Byte)),
      f.length ≤ Config.params.frameInCapacity) ∧
    reassemble Config.params 0x0A5 [[0, 0, 0, 0, 0x50, 0xA5, 0, 1, 9], [0, 0, 0, 0, 0x40, 0xA5, 0, 0]] = .sealed [9] :=
  ⟨pushFive_inv, by decide, by decide⟩

theorem witness_RoundTripReturnsThePayload :
    (1 ≤ (1#9).toNat ∧ (1#9).toNat ≤ Config.params.maxChunkLimit ∧
      ([0xAA, 0xBB, 0xCC] : List Byte).length = (3#10).toNat ∧ (3#10).toNat ≤ Config.params.segCapacity ∧
      segThree.segBuf.readRange 0 3 = some [0xAA, 0xBB, 0xCC] ∧ 3 = chunkCount 3 1 ∧
      3 ≤ Config.params.maxFrames + 1 ∧
      ∀ w ∈ List.replicate 3 (([1, 2, 3, 4], [9]) : List Byte × List Byte), w.1.length = 4 ∧ w.2.length ≤ 1) ∧
    (Config.params.wellFormed = true ∧ ∀ w ∈ List.replicate 3 (([1, 2, 3, 4], [9]) : List Byte × List Byte),
      w.1.length = Config.params.inHdrOff) := by decide

theorem witness_RaisesArePrecise :
    decode 0 = .error .reservedOpcode ∧ nextIs (exec .segNext State.reset) (fun t => t.lastCode == 5) = true ∧
    nextIs (exec (.hdrDec 3) State.reset) (fun t => t.lastCode == 1) = true ∧
    nextIs (exec (.rsmPush 7) pushFive) (fun t => t.lastCode == 1) = true ∧
    nextIs (exec (.rsmPush 14) { pushFive with rsmLen := 696 })
      (fun t => t.lastCode == 3 && t.rsmLimitCause == 2 && t.rsmNframes == 1) = true ∧
    nextIs (exec (.rsmPush 8) { pushEmpty 0x50 with rsmNframes := 10 })
      (fun t => t.lastCode == 3 && t.rsmLimitCause == 1 && t.rsmNframes == 11) = true := by decide

theorem witness_FirstErrorIsReported :
    decode 0 = .error .reservedOpcode ∧ opField 0x8000000E = 8 ∧
    nextIs (execWord 0x8000000E pushFive) (fun t => t.lastCode == 0) = true ∧ pushFive.headerIs 0x40 0xA5 0 5 :=
  ⟨by decide, by decide, by decide, ⟨by decide, by decide, by decide, by decide⟩⟩

theorem witness_ErrorStatesAreSticky :
    ({ State.reset with segState := .error } : State).segState = .error ∧
    ({ State.reset with rsmState := .error } : State).rsmState = .error ∧
    nextIs (step { hostAt (.wr32 0x0000 0x40000000) with segState := .error, segErr := 4 })
      (fun t => decide (t.segState ≠ .error)) = true ∧
    nextIs (step { hostAt (.wr32 0x0000 0x70000000) with rsmState := .error, rsmErr := 2 })
      (fun t => decide (t.rsmState ≠ .error)) = true ∧
    nextIs (step { hostAt .releaseReset with rsmState := .error, segState := .error, resetIn := true })
      (fun t => decide (t.rsmState ≠ .error) && decide (t.segState ≠ .error)) = true := by decide

theorem witness_StepKeepsInv : Inv segThree ∧ nextIs (step segThree) (fun _ => true) = true :=
  ⟨segThree_inv, by decide⟩

theorem witness_CountersNeverWrap :
    (Inv segThree ∧ nextIs (exec .segNext segThree) (fun t => t.lastCode == 0) = true) ∧
    Inv pushFive ∧ pushFive.cell .frameIn 7 = some 5 ∧
    nextIs (exec (.rsmPush 14) pushFive) (fun t => t.lastCode == 0) = true :=
  ⟨⟨segThree_inv, by decide⟩, pushFive_inv, by decide, by decide⟩

theorem witness_OnlyItsCommandsWriteARegister :
    nextIs (exec (.hdrEnc 7 1 0xFFF 255) segThree) (fun t => decide (t.hdrOut ≠ segThree.hdrOut)) = true ∧
    nextIs (exec .segNext segThree)
      (fun t => decide (t.frameOut ≠ segThree.frameOut) && decide (t.segOff ≠ segThree.segOff)) = true ∧
    nextIs (exec (.segStart 1 2 3) State.reset) (fun t => decide (t.segLen ≠ 0) && decide (t.segChunk ≠ 0)) = true ∧
    nextIs (exec .segFail { segThree with segNframes := 1 }) (fun t => decide (t.segErr ≠ 0)) = true ∧
    nextIs (exec (.rsmStart 7) State.reset) (fun t => decide (t.rsmCmd ≠ 0)) = true ∧
    nextIs (exec (.rsmPush 14) pushFive) (fun t => decide (t.rsmLen ≠ 0) && decide (t.rsmBuf ≠ [])) = true := by decide

theorem witness_UnitsChangeOnlyThemselves :
    nextIs (exec .segNext segThree) (fun _ => true) = true ∧ Instr.segNext.isSegmenter = true ∧
    (Instr.rsmPush 14).isReassembler = true ∧ (Instr.hdrDec 4).isSegmenter = false := by decide

theorem witness_UnitsReadOnlyThemselves :
    (Instr.segNext.isSegmenter = true ∧ SameSegmenter segThree { segThree with rsmState := .collecting, din := 7 } ∧
      nextIs (exec .segNext segThree) (fun _ => true) = true) ∧
    (Instr.rsmPush 14).isReassembler = true ∧ SameReassembler pushFive { pushFive with segState := .active } :=
  ⟨⟨by decide, ⟨rfl, rfl, rfl, rfl, rfl, rfl, rfl, rfl, rfl, rfl, rfl, rfl⟩, by decide⟩, by decide,
    ⟨rfl, rfl, rfl, rfl, rfl, rfl, rfl, rfl⟩⟩

theorem witness_UnitsCommute :
    Instr.segNext.isSegmenter = true ∧ (Instr.rsmPush 14).isReassembler = true ∧
    nextIs (exec .segNext segThree) (fun a => nextIs (exec (.rsmPush 14) a) (fun _ => true)) = true := by decide

theorem witness_DefinedCellsStayDefined :
    nextIs (step segThree) (fun _ => true) = true ∧ (segThree.cell .segBuf 2).isSome ∧
    ∀ rest, segThree.pending ≠ .releaseReset :: rest := ⟨by decide, by decide, fun _ h => by cases h⟩

/-- A sealed reassembly of one byte. -/
def sealedOne : State := { State.reset with rsmState := .sealed, rsmLen := 1, rsmNframes := 1, rsmBuf := [(0, 9)] }

theorem sealedOne_inv : Inv sealedOne where
  buffers := ⟨fun b => by cases b <;> decide, fun b i h => by
    cases b
    case rsmBuf =>
      have h : 700 ≤ i := h
      simp [State.cell, State.buffer, sealedOne, Memory.read, show ¬0 = i by omega]
    all_goals rfl⟩
  segmenter := ⟨by decide, by decide, by decide, by decide, by decide, by decide, by decide, by decide, by decide,
    by decide, by decide⟩
  reassembler := ⟨by decide, by decide, by decide, by decide, by decide, by decide, by decide⟩
  code := ⟨.ok, by decide, by decide⟩
  reserved := by decide

theorem witness_SealedHasAResult : Inv sealedOne ∧ sealedOne.rsmState = .sealed ∧ sealedOne.result = some [9] :=
  ⟨sealedOne_inv, by decide, by decide⟩

theorem witness_ResetAbandonsEverything :
    (hostAt .assertReset).pending = [.assertReset] ∧
    (({ hostAt (.rd32 0x0004) with resetIn := true } : State).pending = [.rd32 0x0004] ∧
      HostEvent.rd32 0x0004 ≠ .assertReset ∧ HostEvent.rd32 0x0004 ≠ .releaseReset) ∧
    ({ hostAt .releaseReset with resetIn := true } : State).pending = [.releaseReset] := by decide

theorem witness_StatusFieldPositions :
    segThree.segState = .active ∧ ({ segThree with segState := .done } : State).segState = .done ∧
    ({ segThree with segState := .error } : State).segState = .error ∧ State.reset.segState = .idle ∧
    pushFive.rsmState = .collecting ∧ sealedOne.rsmState = .sealed ∧
    ({ pushFive with rsmState := .error } : State).rsmState = .error ∧ State.reset.rsmState = .idle := by decide

theorem witness_HostReadsRegisters : (hostAt (.rd32 0x004C)).about (.rd32 0x004C) [] := ⟨rfl, rfl, rfl⟩

theorem witness_HostReadsCells :
    (699 < Buf.segBuf.capacity Config.params ∧ (hostAt (.rd8 0x12BB)).about (.rd8 (BitVec.ofNat 16 (0x1000 + 699))) []) ∧
    (hostAt (.rd8 0x12BB)).cell .segBuf 699 = none ∧
    State.cell { hostAt (.rd8 0x1000) with segBuf := [(0, 7)] } .segBuf 0 = some 7 :=
  ⟨⟨by decide, ⟨rfl, rfl, rfl⟩⟩, by decide, by decide⟩

theorem witness_HostWritesLand :
    (hostAt (.wr32 0x0008 5)).about (.wr32 0x0008 5) [] ∧
    (699 < Config.params.segCapacity ∧
      (hostAt (.wr8 0x12BB 5)).about (.wr8 (BitVec.ofNat 16 (0x1000 + 699)) 5) []) ∧
    (263 < Config.params.frameInCapacity ∧
      (hostAt (.wr8 0x3107 5)).about (.wr8 (BitVec.ofNat 16 (0x3000 + 263)) 5) []) :=
  ⟨⟨rfl, rfl, rfl⟩, ⟨by decide, ⟨rfl, rfl, rfl⟩⟩, ⟨by decide, ⟨rfl, rfl, rfl⟩⟩⟩

/-- A state whose buffers hold a 1 in their last cells. -/
def lastCells : State :=
  { State.reset with
    segBuf := [(699, 1)], frameOut := [(254, 1)], frameIn := [(263, 1)], rsmBuf := [(699, 1)] }

/-- The edges of the ranges: the last cell and the first address past each window. -/
theorem witness_HostMisuseFaults :
    (hostAt (.rd32 0x0000)).about (.rd32 0x0000) [] ∧
    ([0x12BC, 0x20FF, 0x3108, 0x42BC, 0x0000, 0x0FFF] : List HostAddr).all (fun a =>
      misuseIs (step (hostAt (.rd8 a))) { State.reset with faulted := some .hostBusMisuse }) = true ∧
    ([0x12BB, 0x20FE, 0x3107, 0x42BB] : List HostAddr).all (fun a =>
      nextIs (step { lastCells with pending := [.rd8 a] }) (fun t => t.readData == some 1)) = true ∧
    ([0x0050, 0x0002, 0x1000, 0x0004, 0x004C] : List HostAddr).all (fun a =>
      misuseIs (step (hostAt (.wr32 a 0))) { State.reset with faulted := some .hostBusMisuse }) = true :=
  ⟨⟨rfl, rfl, rfl⟩, by decide, by decide, by decide⟩

theorem witness_FillWritesTheBytes :
    698 + ([1, 2] : List Byte).length ≤ Config.params.segCapacity ∧
    ({ State.reset with pending := fillEvents .segBuf 698 [1, 2] } : State).pending = fillEvents .segBuf 698 [1, 2] ++ [] ∧
    State.reset.resetIn = false ∧ State.reset.faulted = none := by decide

theorem witness_BlockIsTheRecord :
    BuffersOk segThree ∧ BuffersOk pushFive ∧ (segThree.record Config.params).segLen = 3 ∧
    (segThree.record Config.params).segBuf ⟨1, by decide⟩ = some 0xBB ∧
    (segThree.record Config.params).segBuf ⟨699, by decide⟩ = none :=
  ⟨segThree_inv.buffers, pushFive_inv.buffers, by decide, by decide, by decide⟩

theorem witness_OnlyTheRecordIsState :
    segThree.toBlock = ({ segThree with draws := 5, readData := some 9 } : State).toBlock ∧
    nextIs (exec .segNext segThree) (fun _ => true) = true ∧
    (hostAt (.rd32 0x0004)).about (.rd32 0x0004) [] ∧
    (hostAt (.rd32 0x0004)).toBlock =
      ({ State.reset with pending := [.rd32 0x0004, .rd32 0x0008], readData := some 9 } : State).toBlock ∧
    ({ State.reset with pending := [.rd32 0x0004, .rd32 0x0008], readData := some 9 } : State).about (.rd32 0x0004)
      [.rd32 0x0008] :=
  ⟨rfl, by decide, ⟨rfl, rfl, rfl⟩, rfl, ⟨rfl, rfl, rfl⟩⟩

theorem witness_FaultMarkIsNeverCleared :
    ({ hostAt (.rd32 0x0004) with faulted := some .undefinedRead } : State).faulted = some .undefinedRead ∧
    ({ hostAt .releaseReset with faulted := some .undefinedRead, resetIn := true } : State).pending = [.releaseReset] ∧
    nextIs (step { hostAt .assertReset with faulted := some .undefinedRead })
      (fun t => decide (t.faulted = some .undefinedRead)) = true ∧
    nextIs (step { hostAt .releaseReset with faulted := some .undefinedRead })
      (fun t => decide (t.faulted = some .undefinedRead)) = true := by decide

/-- The parameters of R7 with the other reading of the frame limit (90_conflicts.md C5). -/
def strictParams : Params := { Config.params with lastBeatsLimit := false }

/-- An eleventh frame, tagged LAST, that the host is about to push. -/
def pushEleventh : State := { pushEmpty 0x40 with rsmNframes := 10, pending := [.wr32 0x0000 0x80000008] }

theorem witness_ParametersReachEveryCommand :
    strictParams.wellFormed = true ∧ pushEleventh.about (.wr32 0x0000 0x80000008) [] ∧
    decode 0x80000008 = .ok (.rsmPush 8) ∧ decode 0 = .error .reservedOpcode ∧
    (pushEleventh.rsmState = .collecting ∧ (8#9).toNat ≤ strictParams.frameInCapacity ∧
      strictParams.minInbound ≤ (8#9).toNat ∧
      pushEleventh.inboundHeader strictParams = some [0x40, 0xA5, 0, 0] ∧
      hdrDecode [0x40, 0xA5, 0, 0] = some { mt := 2, pbf := 0, cmd := 0x0A5, len := 0, rsv := 0 } ∧
      pushEleventh.inboundPayload strictParams 0 = some [] ∧
      strictParams.maxFrames < pushEleventh.rsmNframes.toNat + 1) ∧
    (strictParams.frameInCapacity < (265#9).toNat ∧ (7#9).toNat < strictParams.minInbound) ∧
    ({ hostAt .releaseReset with resetIn := true } : State).pending = [.releaseReset] :=
  ⟨by decide, ⟨rfl, rfl, rfl⟩, by decide, by decide, by decide, by decide, by decide⟩

/-- An eleventh frame tagged LAST fails in the block built with `LAST_BEATS_LIMIT` false, and seals at R7's value. -/
theorem test_stepWith_lastBeatsLimit :
    nextIs (stepWith strictParams pushEleventh) (fun t => t.statusWord == 0x130C3) = true ∧
    nextIs (stepWith Config.params pushEleventh) (fun t => t.statusWord == 0x80) = true := by decide

/-- VS15's bound and VR10's at other parameters, and the reset value of `SEG_MAXCHUNK`. -/
theorem test_stepWith_limits :
    nextIs (stepWith { Config.params with maxChunkLimit := 100 } (hostAt (.wr32 0x0000 0x30000065)))
      (fun t => t.segMaxChunk == 251 && t.statusWord == 6) = true ∧
    nextIs (stepWith { Config.params with segCapacity := 10 } (hostAt (.wr32 0x0000 0x4000000B)))
      (fun t => t.statusWord == 6) = true ∧
    nextIs (stepWith { Config.params with maxChunkReset := 100 } { hostAt .releaseReset with resetIn := true })
      (fun t => t.segMaxChunk == 100) = true := by decide

end Sys2Proof.Tests
end

section
/-! SUPPORT. The counters of R12: what a SEG_NEXT or RSM_PUSH that completes with OK has done to them, and that under
the invariant no sum they store wraps. -/

namespace Sys2Proof.Machine

/-! ### Commands that end with OK (R160, R163) -/

/-- OK is the one status code numbered 0 (R160). -/
@[simp] theorem Code.bits_eq_zero_iff (c : Code) : c.bits = 0#4 ↔ c = .ok := by cases c <;> decide

/-- A SEG_NEXT that ends with OK has emitted the frame of the next chunk (R125). -/
theorem execSegNext_ok {s t : State} (h : exec .segNext s = .next t) (hok : t.lastCode = 0) :
    ∃ chunk, s.segState = .active ∧ s.chunkBytes = some chunk ∧ t = (s.emitFrame Config.params chunk).complete := by
  change segNextWith Config.params s = .next t at h
  obtain ⟨-, hr⟩ | ⟨-, -, hr⟩ | ⟨chunk, hactive, hbytes, hr⟩ := segNextWith_cases Config.params s
  · obtain rfl := Host.Outcome.next.inj (hr.symm.trans h)
    simp at hok
  · exact absurd (hr.symm.trans h) (by simp)
  · exact ⟨chunk, hactive, hbytes, (Host.Outcome.next.inj (hr.symm.trans h)).symm⟩

/-- The end of a frame leaves the length of the accumulated message (R146). -/
@[simp] theorem State.settleFrame_rsmLen (p : Params) (pbf : BoundaryFlag) (count : Nat) (s : State) :
    (s.settleFrame p pbf count).rsmLen = s.rsmLen := by
  obtain ⟨-, hs⟩ | ⟨-, hs⟩ | ⟨-, -, hs⟩ := s.settleFrame_cases p pbf count <;> simp [hs]

/-- The end of a frame leaves the count of frames (R146). -/
@[simp] theorem State.settleFrame_rsmNframes (p : Params) (pbf : BoundaryFlag) (count : Nat) (s : State) :
    (s.settleFrame p pbf count).rsmNframes = s.rsmNframes := by
  obtain ⟨-, hs⟩ | ⟨-, hs⟩ | ⟨-, -, hs⟩ := s.settleFrame_cases p pbf count <;> simp [hs]

/-- The length field of a decoded header is its fourth byte (R101). -/
theorem hdrDecode_len {bs : List Byte} {h : Header} (hd : hdrDecode bs = some h) : bs[3]? = some h.len := by
  rcases bs with _ | ⟨b0, _ | ⟨b1, _ | ⟨b2, _ | ⟨b3, rest⟩⟩⟩⟩ <;> simp [hdrDecode] at hd
  simp [← hd]

/-- The length field of the inbound frame's header is the fourth cell of the header in `FRAME_IN` (R83, R101). -/
theorem State.inboundHeader_len {p : Params} {s : State} {bytes : List Byte} {h : Header}
    (hb : s.inboundHeader p = some bytes) (hd : hdrDecode bytes = some h) :
    s.cell .frameIn (p.inHdrOff + 3) = some h.len := by
  obtain ⟨-, hcells⟩ := (Memory.readRange_eq_some ..).1 hb
  exact (hcells 3 (by decide)).trans (hdrDecode_len hd)

/-- A frame whose consumption ends with OK was counted, and a payload of the length its header gives was appended within
the size limit (R143, R145). -/
theorem consumeFrame_ok {p : Params} {n : Nat} {hdr : Header} {s t : State} (h : consumeFrame p n hdr s = .next t)
    (hok : t.lastCode = 0) :
    ∃ payload : List Byte, payload.length = hdr.len.toNat ∧ s.rsmLen.toNat + hdr.len.toNat ≤ p.maxReassembledSize ∧
      t = (s.countFrame.appendPayload payload).settleFrame p hdr.pbf (s.rsmNframes.toNat + 1) := by
  obtain ⟨-, hr⟩ | ⟨-, hr⟩ | ⟨-, hr⟩ | ⟨-, hr⟩ | ⟨payload, -, hlen, hfits, hr⟩ := consumeFrame_cases p n hdr s
  case inr.inr.inr.inl => exact absurd (hr.symm.trans h) (by simp)
  case inr.inr.inr.inr => exact ⟨payload, hlen, hfits, (Host.Outcome.next.inj (hr.symm.trans h)).symm⟩
  all_goals
    obtain rfl := Host.Outcome.next.inj (hr.symm.trans h)
    simp at hok

/-- A RSM_PUSH that ends with OK has decoded the header of the frame in COLLECTING and consumed the frame (R143). -/
theorem execRsmPush_ok {n : BitVec 9} {s t : State} (h : exec (.rsmPush n) s = .next t) (hok : t.lastCode = 0) :
    ∃ hdr : Header, s.rsmState = .collecting ∧ s.cell .frameIn 7 = some hdr.len ∧
      consumeFrame Config.params n.toNat hdr s = .next t := by
  change rsmPushWith Config.params n s = .next t at h
  obtain ⟨-, hr⟩ | ⟨-, -, hr⟩ | ⟨-, -, hr⟩ | ⟨-, -, hr⟩ | ⟨bytes, hdr, hcollecting, hbytes, hdec, hr⟩ :=
    rsmPushWith_cases Config.params n s
  case inr.inr.inr.inl => exact absurd (hr.symm.trans h) (by simp)
  case inr.inr.inr.inr => exact ⟨hdr, hcollecting, State.inboundHeader_len hbytes hdec, hr.symm.trans h⟩
  all_goals
    obtain rfl := Host.Outcome.next.inj (hr.symm.trans h)
    simp at hok

/-! ### Bounds and exact sums (R12) -/

/-- The bounds of R12 hold in every state that meets the invariant. -/
theorem Inv.counters_bounded {s : State} (hs : Inv s) :
    s.segLen.toNat ≤ Config.params.segCapacity ∧ s.segOff.toNat ≤ Config.params.segCapacity ∧
    (s.segNframes.toNat ≤ Config.params.segCapacity ∨ s.segLen = 0 ∧ s.segNframes.toNat = 1) ∧
    s.rsmLen.toNat ≤ Config.params.maxReassembledSize ∧ s.rsmNframes.toNat ≤ Config.params.maxFrames + 1 := by
  have hlen := hs.segmenter.len
  have hoff := hs.segmenter.off
  refine ⟨hlen, hoff.trans hlen, .inl ?_, hs.reassembler.len, hs.reassembler.frames⟩
  obtain hframes | ⟨-, hframes⟩ := hs.segmenter.frames
  · exact hframes.trans (hoff.trans hlen)
  · exact hframes.trans (by decide)

/-- Emitting a frame advances the Segmenter's counters by the exact sums: the offset stays within `SEG_LEN`, there are
no more frames than bytes or one frame of an empty payload, and a chunk has fewer than 256 bytes. -/
theorem SegmenterOk.emitFrame_counters {s : State} (hs : SegmenterOk s) (chunk : List Byte) :
    (s.emitFrame Config.params chunk).segOff.toNat = s.segOff.toNat + s.chunkLen ∧
    (s.emitFrame Config.params chunk).segNframes.toNat = s.segNframes.toNat + 1 ∧
    (s.emitFrame Config.params chunk).frameOutLen.toNat = Config.hdrBytes + s.chunkLen := by
  have hlen : s.segLen.toNat ≤ 700 := hs.len
  have hsum := State.off_add_chunkLen_le hs.off
  have hchunk := s.chunkLen_lt
  have hhdr : Config.hdrBytes = 4 := rfl
  have hframes : s.segNframes.toNat ≤ 700 := by
    obtain hle | ⟨-, hle⟩ := hs.frames
    · exact hle.trans (hs.off.trans hlen)
    · omega
  refine ⟨?_, ?_, ?_⟩
  · rw [State.emitFrame_segOff, BitVec.toNat_ofNat, Nat.mod_eq_of_lt (by omega)]
  · rw [State.emitFrame_segNframes, BitVec.toNat_ofNat, Nat.mod_eq_of_lt (by omega)]
  · rw [State.emitFrame_frameOutLen, BitVec.toNat_ofNat, Nat.mod_eq_of_lt (by omega)]

/-- Consuming a frame that fits in COLLECTING advances the Reassembler's counters by the exact sums: the size limit and
the frame limit keep them inside their fields. -/
theorem ReassemblerOk.consumed_counters {s : State} (hs : ReassemblerOk s) (hc : s.rsmState = .collecting)
    {payload : List Byte} (hfits : s.rsmLen.toNat + payload.length ≤ Config.params.maxReassembledSize) :
    (s.countFrame.appendPayload payload).rsmLen.toNat = s.rsmLen.toNat + payload.length ∧
    (s.countFrame.appendPayload payload).rsmNframes.toNat = s.rsmNframes.toNat + 1 := by
  have hfits : s.rsmLen.toNat + payload.length ≤ 700 := hfits
  have hframes : s.rsmNframes.toNat ≤ 10 := hs.collecting hc
  constructor
  · rw [State.appendPayload_rsmLen, State.countFrame_rsmLen, BitVec.toNat_ofNat, Nat.mod_eq_of_lt (by omega)]
  · rw [State.appendPayload_rsmNframes, State.countFrame_rsmNframes, BitVec.toNat_ofNat, Nat.mod_eq_of_lt (by omega)]

/-- Settles O38: the bounds are the invariant's, and a command that ends with OK has stored sums that these bounds keep
inside their fields. -/
theorem countersNeverWrap : Obligations.CountersNeverWrap := by
  refine ⟨fun s hs => hs.counters_bounded, fun s t hs h hok => ?_, fun n s t len hs hlen h hok => ?_⟩
  · obtain ⟨chunk, -, -, rfl⟩ := execSegNext_ok h hok
    exact hs.segmenter.emitFrame_counters chunk
  · obtain ⟨hdr, hcollecting, hcell, hconsume⟩ := execRsmPush_ok h hok
    obtain ⟨payload, hpayload, hfits, rfl⟩ := consumeFrame_ok hconsume hok
    obtain rfl : len = hdr.len := Option.some.inj (hlen.symm.trans hcell)
    rw [← hpayload] at hfits ⊢
    simpa using hs.reassembler.consumed_counters hcollecting hfits

end Sys2Proof.Machine
end

section
/-! SUPPORT. Reset (R41): what the registers of the host's map hold in the state after reset. -/

namespace Sys2Proof.Machine

/-- STATUS is zero after reset: both units are IDLE, LAST_CODE is OK and the error fields are zero (R23, R41). -/
@[simp] theorem State.reset_statusWord : State.reset.statusWord = 0 := by decide

/-- After reset `SEG_MAXCHUNK` reads as `MAX_CHUNK_RESET`, which its 8 bits hold in full, and every other register reads
as zero (R41). -/
theorem State.reset_register (r : Reg) :
    State.reset.register r = if r = .segMaxChunk then BitVec.ofNat 32 Config.params.maxChunkReset else 0 := by
  cases r with
  | status => exact State.reset_statusWord
  | segMaxChunk => decide
  | _ => rfl

/-- Settles O35: the registers and the cells by their reset lemmas, the fields of STATUS and R7's value of
`MAX_CHUNK_RESET` by definition. -/
theorem resetValues : Obligations.ResetValues :=
  ⟨State.reset_register, State.reset_cell, rfl, rfl, rfl, rfl, rfl, rfl, rfl⟩

end Sys2Proof.Machine
end

section
/-! SUPPORT. The decoder by its two conditions (R76): the word has a command's opcode, and that command's reserved bits
are zero. The rows of R77's map and the reserved fields of R71 to R75 say the same of a word. -/

namespace Sys2Proof

/-! ### The two conditions (R76) -/

/-- The command a word names has the word's opcode (R77). -/
theorem opField_of_commandOf {w : Word} {i : Instr} (h : commandOf w = some i) : opField w = i.opcode := by
  unfold commandOf at h
  split at h <;> cases h <;> assumption

/-- A word with a command's opcode names a command that differs from it in operands only, so not in the bits reserved
(R77). -/
theorem exists_commandOf_of_opField {w : Word} {i : Instr} (h : opField w = i.opcode) :
    ∃ j, commandOf w = some j ∧ reservedMask j = reservedMask i := by
  unfold commandOf
  rw [h]
  cases i <;> exact ⟨_, rfl, rfl⟩

/-- A word is accepted as the command it names, where that command's reserved bits are zero (R76). -/
theorem decode_eq_ok_iff {w : Word} {i : Instr} :
    decode w = .ok i ↔ commandOf w = some i ∧ w &&& reservedMask i = 0 := by
  unfold decode
  cases commandOf w with
  | none => simp
  | some j =>
    by_cases hr : w &&& reservedMask j = 0
    · simp only [if_pos hr, Except.ok.injEq, Option.some.injEq]
      exact ⟨fun h => ⟨h, h ▸ hr⟩, And.left⟩
    · simp only [if_neg hr, Option.some.injEq, reduceCtorEq, false_iff]
      exact fun ⟨h, hi⟩ => hr (h ▸ hi)

/-- An accepted word has its command's opcode (R76). -/
theorem opField_of_decode {w : Word} {i : Instr} (h : decode w = .ok i) : opField w = i.opcode :=
  opField_of_commandOf (decode_eq_ok_iff.1 h).1

/-- A word is accepted exactly when it has some command's opcode and that command's reserved bits are zero (R76). -/
theorem exists_decode_ok_iff {w : Word} :
    (∃ i, decode w = .ok i) ↔ ∃ i : Instr, opField w = i.opcode ∧ w &&& reservedMask i = 0 := by
  simp only [decode_eq_ok_iff]
  constructor
  · rintro ⟨i, hi, hr⟩
    exact ⟨i, opField_of_commandOf hi, hr⟩
  · rintro ⟨i, hop, hr⟩
    obtain ⟨j, hj, hm⟩ := exists_commandOf_of_opField hop
    exact ⟨j, hj, hm ▸ hr⟩

/-- The decoder's only verdicts are accepted and refused (R79). -/
theorem exists_decode_error_iff {w : Word} : (∃ e, decode w = .error e) ↔ ¬ ∃ i, decode w = .ok i := by
  cases decode w <;> simp

/-! ### Words written by the encoder (R71 to R77) -/

/-- The encoder leaves the reserved bits of a command's format zero. -/
theorem encode_and_reservedMask (i : Instr) : encode i &&& reservedMask i = 0 := by
  cases i with
  | hdrEnc => exact formatH_reserved ..
  | hdrDec | setMaxchunk | rsmPush => exact formatK_reserved ..
  | segStart => exact formatS_reserved ..
  | segNext | segFail => decide
  | rsmStart => exact formatC_reserved ..

/-- The fields of an encoded command are its opcode and its operands. -/
theorem commandOf_encode (i : Instr) : commandOf (encode i) = some i := by
  cases i <;> simp [commandOf, encode]

/-- An encoded command is accepted as itself. -/
theorem decode_encode (i : Instr) : decode (encode i) = .ok i :=
  decode_eq_ok_iff.2 ⟨commandOf_encode i, encode_and_reservedMask i⟩

/-! ### The rows of the opcode map (R77) -/

/-- The row of a command: its opcode, MATCH and MASK. -/
def Instr.row (i : Instr) : BitVec 4 × Word × Word :=
  (i.opcode, formatN i.opcode, 0xF#4 ++ (reservedMask i).setWidth 28)

/-- One command of each row of R77's map, in its order. -/
def oneOfEach : List Instr :=
  [.hdrEnc 0 0 0 0, .hdrDec 0, .setMaxchunk 0, .segStart 0 0 0, .segNext, .segFail, .rsmStart 0, .rsmPush 0]

theorem opcodeMasks_eq_map_row : opcodeMasks = oneOfEach.map Instr.row := by decide

/-- A command's row does not depend on its operands. -/
theorem exists_oneOfEach_row_eq (i : Instr) : ∃ j ∈ oneOfEach, j.row = i.row := by
  cases i with
  | hdrEnc => exact ⟨.hdrEnc 0 0 0 0, by decide, rfl⟩
  | hdrDec => exact ⟨.hdrDec 0, by decide, rfl⟩
  | setMaxchunk => exact ⟨.setMaxchunk 0, by decide, rfl⟩
  | segStart => exact ⟨.segStart 0 0 0, by decide, rfl⟩
  | segNext => exact ⟨.segNext, by decide, rfl⟩
  | segFail => exact ⟨.segFail, by decide, rfl⟩
  | rsmStart => exact ⟨.rsmStart 0, by decide, rfl⟩
  | rsmPush => exact ⟨.rsmPush 0, by decide, rfl⟩

/-- The map holds the rows of the commands and no others. -/
theorem mem_opcodeMasks_iff {r : BitVec 4 × Word × Word} : r ∈ opcodeMasks ↔ ∃ i : Instr, i.row = r := by
  rw [opcodeMasks_eq_map_row, List.mem_map]
  constructor
  · rintro ⟨j, -, hr⟩
    exact ⟨j, hr⟩
  · rintro ⟨i, rfl⟩
    exact exists_oneOfEach_row_eq i

/-- The rows have distinct opcodes (R79). -/
theorem opcodeMasks_opcodes_nodup : (opcodeMasks.map Prod.fst).Nodup := by decide

/-- A concatenation determines its parts. -/
theorem append_inj_iff {m n : Nat} {x x' : BitVec m} {y y' : BitVec n} :
    x ++ y = x' ++ y' ↔ x = x' ∧ y = y' := by
  refine ⟨fun h => ⟨?_, ?_⟩, fun ⟨hx, hy⟩ => hx ▸ hy ▸ rfl⟩
  · rw [← BitVec.extractLsb'_append_eq_left (a := x) (b := y), h, BitVec.extractLsb'_append_eq_left]
  · rw [← BitVec.extractLsb'_append_eq_right (a := x) (b := y), h, BitVec.extractLsb'_append_eq_right]

/-- A mask written as its opcode part and its other 28 bits masks these two parts of a word apart (R70). -/
theorem and_append_eq (w : Word) (x : BitVec 4) (y : BitVec 28) :
    w &&& (x ++ y) = (opField w &&& x) ++ (w.extractLsb' 0 28 &&& y) := by
  have hw : opField w ++ w.extractLsb' 0 28 = w := BitVec.extractLsb'_append_extractLsb' (w := 4)
  conv_lhs => rw [← hw]
  exact BitVec.and_append

/-- No command reserves a bit of the opcode field (R70). -/
theorem reservedMask_eq_append (i : Instr) : reservedMask i = 0#4 ++ (reservedMask i).setWidth 28 := by
  cases i <;> simp [reservedMask]

/-- A command's row matches a word exactly when the word has its opcode and its reserved bits are zero (R76, R77). -/
theorem row_matches_iff {w : Word} {i : Instr} :
    w &&& i.row.2.2 = i.row.2.1 ↔ opField w = i.opcode ∧ w &&& reservedMask i = 0 := by
  have hrow : w &&& i.row.2.2 = opField w ++ (w.extractLsb' 0 28 &&& (reservedMask i).setWidth 28) :=
    (and_append_eq w ..).trans (congrArg (· ++ _) BitVec.and_allOnes)
  have hres : w &&& reservedMask i = 0#4 ++ (w.extractLsb' 0 28 &&& (reservedMask i).setWidth 28) := by
    rw [reservedMask_eq_append i, and_append_eq w, BitVec.and_zero, ← reservedMask_eq_append i]
  rw [hrow, hres]
  exact append_inj_iff.trans (and_congr_right' (append_inj_iff.trans (and_iff_right rfl)).symm)

/-- A word is accepted exactly when a row of the map matches it (R76). -/
theorem exists_decode_ok_iff_row {w : Word} :
    (∃ i, decode w = .ok i) ↔ ∃ r ∈ opcodeMasks, w &&& r.2.2 = r.2.1 := by
  simp only [exists_decode_ok_iff, mem_opcodeMasks_iff, ← row_matches_iff]
  constructor
  · rintro ⟨i, hi⟩
    exact ⟨i.row, ⟨i, rfl⟩, hi⟩
  · rintro ⟨_, ⟨i, rfl⟩, hi⟩
    exact ⟨i, hi⟩

/-- A word has the opcode of a row that matches it. -/
theorem opField_of_row_matches {w : Word} {r : BitVec 4 × Word × Word} (hr : r ∈ opcodeMasks)
    (h : w &&& r.2.2 = r.2.1) : opField w = r.1 := by
  obtain ⟨i, rfl⟩ := mem_opcodeMasks_iff.1 hr
  exact (row_matches_iff.1 h).1

/-- No two rows match the same word, for their opcodes are distinct (R79). -/
theorem row_eq_of_matches {w : Word} {r r' : BitVec 4 × Word × Word} (hr : r ∈ opcodeMasks)
    (h : w &&& r.2.2 = r.2.1) (hr' : r' ∈ opcodeMasks) (h' : w &&& r'.2.2 = r'.2.1) : r = r' :=
  List.inj_on_of_nodup_map opcodeMasks_opcodes_nodup hr hr'
    ((opField_of_row_matches hr h).symm.trans (opField_of_row_matches hr' h'))

/-- Settles O3: acceptance is a match with some row, and distinct opcodes leave room for one. -/
theorem decoderGivesEveryWordOneVerdict : Obligations.DecoderGivesEveryWordOneVerdict := by
  refine ⟨fun w => ?_, fun w => ?_, fun w i => opField_of_decode, List.pairwise_map.1 opcodeMasks_opcodes_nodup⟩
  · rw [exists_decode_ok_iff_row]
    constructor
    · rintro ⟨r, hr, h⟩
      exact ⟨r, ⟨hr, h⟩, fun r' ⟨hr', h'⟩ => row_eq_of_matches hr' h' hr h⟩
    · exact ExistsUnique.exists
  · rw [exists_decode_error_iff, exists_decode_ok_iff_row]
    exact not_exists.trans (forall_congr' fun _ => not_and)

/-! ### Reserved fields (R71 to R75) -/

/-- The word whose set bits are those of the field of `len` bits from bit `lo` up. -/
def fieldMask (lo len : Nat) : Word := BitVec.ofNat 32 ((2 ^ len - 1) <<< lo)

theorem getLsbD_fieldMask (lo len i : Nat) :
    (fieldMask lo len).getLsbD i = decide (i < 32 ∧ lo ≤ i ∧ i - lo < len) := by
  simp [fieldMask, BitVec.getLsbD_ofNat, Nat.testBit_shiftLeft]

/-- A field's mask finds no bit exactly when the field is zero. -/
theorem and_fieldMask_eq_zero_iff (w : Word) {lo len : Nat} (h : lo + len ≤ 32) :
    w &&& fieldMask lo len = 0 ↔ w.extractLsb' lo len = 0 := by
  simp only [BitVec.eq_of_getLsbD_eq_iff, BitVec.getLsbD_and, getLsbD_fieldMask]
  constructor
  · intro hz j hj
    simpa [hj, show lo + j < 32 by omega] using hz (lo + j) (by omega)
  · intro hz i hi
    by_cases hfield : lo ≤ i ∧ i - lo < len
    · simpa [hfield, hi, Nat.add_sub_cancel' hfield.1] using hz (i - lo) hfield.2
    · simp [hfield]

/-- The masks of two fields together find no bit exactly when both fields are zero. -/
theorem and_fieldMask_or_eq_zero_iff (w : Word) {lo len lo' len' : Nat} (h : lo + len ≤ 32) (h' : lo' + len' ≤ 32) :
    w &&& (fieldMask lo len ||| fieldMask lo' len') = 0 ↔ w.extractLsb' lo len = 0 ∧ w.extractLsb' lo' len' = 0 := by
  rw [BitVec.and_or_distrib_left, ← and_fieldMask_eq_zero_iff w h, ← and_fieldMask_eq_zero_iff w h']
  exact BitVec.or_eq_zero_iff

/-- The fields of a word that a command's format reserves are zero (R71 to R75). -/
def Instr.ReservedZero (w : Word) : Instr → Prop
  | .hdrEnc .. => w.extractLsb' 0 4 = 0
  | .hdrDec .. | .setMaxchunk .. | .rsmPush .. => w.extractLsb' 9 19 = 0
  | .segStart .. => w.extractLsb' 24 1 = 0 ∧ w.extractLsb' 10 2 = 0
  | .segNext | .segFail => w.extractLsb' 0 28 = 0
  | .rsmStart .. => w.extractLsb' 24 4 = 0 ∧ w.extractLsb' 0 12 = 0

/-- The decoder's mask is that of the fields the command's format reserves. -/
theorem and_reservedMask_eq_zero_iff (w : Word) (i : Instr) : w &&& reservedMask i = 0 ↔ i.ReservedZero w := by
  cases i with
  | hdrEnc => exact and_fieldMask_eq_zero_iff w (lo := 0) (len := 4) (by decide)
  | hdrDec | setMaxchunk | rsmPush => exact and_fieldMask_eq_zero_iff w (lo := 9) (len := 19) (by decide)
  | segStart =>
    exact and_fieldMask_or_eq_zero_iff w (lo := 24) (len := 1) (lo' := 10) (len' := 2) (by decide) (by decide)
  | segNext | segFail => exact and_fieldMask_eq_zero_iff w (lo := 0) (len := 28) (by decide)
  | rsmStart =>
    exact and_fieldMask_or_eq_zero_iff w (lo := 24) (len := 4) (lo' := 0) (len' := 12) (by decide) (by decide)

/-- A word with a command's opcode and the reserved fields of its format zero is accepted (R78). -/
theorem exists_decode_ok_of_reservedZero {w : Word} (i : Instr) (hop : opField w = i.opcode) (hr : i.ReservedZero w) :
    ∃ j, decode w = .ok j :=
  exists_decode_ok_iff.2 ⟨i, hop, (and_reservedMask_eq_zero_iff w i).2 hr⟩

/-- An accepted word has the reserved fields of its command's format zero (R78). -/
theorem reservedZero_of_decode {w : Word} {i : Instr} (h : decode w = .ok i) : i.ReservedZero w :=
  (and_reservedMask_eq_zero_iff w i).1 (decode_eq_ok_iff.1 h).2

end Sys2Proof

namespace Sys2Proof.Machine

/-- A word that is not accepted raises ILLEGAL_COMMAND (R76, R78). -/
theorem execWord_of_not_ok {w : Word} (h : ∀ i, decode w ≠ .ok i) (s : State) :
    execWord w s = .next { s with lastCode := 7 } := by
  obtain ⟨e, he⟩ := exists_decode_error_iff.2 fun ⟨i, hi⟩ => h i hi
  exact execWord_error he s

/-! ### Operands out of range (R121, R123, R143) -/

theorem setMaxchunkWith_out_of_range {p : Params} {n : BitVec 9} (h : n.toNat = 0 ∨ p.maxChunkLimit < n.toNat)
    (s : State) : setMaxchunkWith p n s = s.raise .argumentError := if_pos h

theorem segStartWith_out_of_range {p : Params} {len : BitVec 10} (h : p.segCapacity < len.toNat) (mt : MessageType)
    (cmd : CommandId) (s : State) : segStartWith p mt cmd len s = s.raise .argumentError := if_pos h

/-- The range of RSM_PUSH's operand is checked after the Reassembler's state and before all else (R164). -/
theorem rsmPushWith_out_of_range {p : Params} {n : BitVec 9} {s : State} (hc : s.rsmState = .collecting)
    (h : p.frameInCapacity < n.toNat) : rsmPushWith p n s = .next (s.raise .argumentError) := by
  rw [rsmPushWith, if_neg (not_not_intro hc), if_pos h]

/-- Settles O4: an illegal word fails one of the decoder's two conditions and a legal one meets both; an operand out of
range is in the word of a command, which raises ARGUMENT_ERROR itself. -/
theorem illegalWordsAndOutOfRangeOperands : Obligations.IllegalWordsAndOutOfRangeOperands := by
  refine ⟨fun w s h => execWord_of_not_ok (fun i hi => ?_) s, fun w h => ?_, fun n s h => ?_,
    fun mt cmd len s h => ?_, fun n s hc h => ?_⟩
  · have hr := reservedZero_of_decode hi
    rw [opField_of_decode hi] at h
    cases i
    all_goals
      simp only [Instr.ReservedZero] at hr
      simp [Instr.opcode, hr] at h
  · obtain ⟨hop, hr⟩ | ⟨hop | hop | hop, hr⟩ | ⟨hop, hr⟩ | ⟨hop | hop, hr⟩ | ⟨hop, hr⟩ := h
    · exact exists_decode_ok_of_reservedZero (.hdrEnc 0 0 0 0) hop hr
    · exact exists_decode_ok_of_reservedZero (.hdrDec 0) hop hr
    · exact exists_decode_ok_of_reservedZero (.setMaxchunk 0) hop hr
    · exact exists_decode_ok_of_reservedZero (.rsmPush 0) hop hr
    · exact exists_decode_ok_of_reservedZero (.segStart 0 0 0) hop hr
    · exact exists_decode_ok_of_reservedZero .segNext hop hr
    · exact exists_decode_ok_of_reservedZero .segFail hop hr
    · exact exists_decode_ok_of_reservedZero (.rsmStart 0) hop hr
  · have hn : n.toNat = 0 ∨ Config.params.maxChunkLimit < n.toNat := h.imp_left (congrArg BitVec.toNat)
    exact (execWord_ok (decode_encode (.setMaxchunk n)) s).trans
      (congrArg Host.Outcome.next (setMaxchunkWith_out_of_range hn s))
  · exact (execWord_ok (decode_encode (.segStart mt cmd len)) s).trans
      (congrArg Host.Outcome.next (segStartWith_out_of_range h mt cmd s))
  · exact (execWord_ok (decode_encode (.rsmPush n)) s).trans (rsmPushWith_out_of_range hc h)

end Sys2Proof.Machine
end

section
/-! SUPPORT. The HeaderCodec: header bytes and their fields are inverse up to the reserved byte (R102), a register that
holds header bytes is the header's bit fields from bit 31 down (R58, R80), and what HDR_ENC (R103) and HDR_DEC (R105)
do in every state. -/

namespace Sys2Proof

/-! ### The assembler on a command's own source (R86) -/

@[simp] theorem fitsField_toNat {bits : Nat} (x : BitVec bits) : fitsField bits x.toNat = true := decide_eq_true x.isLt

/-- The operands of a command fit their fields, so a command written as source assembles to its word (R86). -/
theorem assemble_toSource (i : Instr) : assemble i.toSource = some (encode i) := by
  have hfits : i.toSource.wellFormed = true := by
    cases i <;> simp [Instr.toSource, Source.wellFormed]
  have hinstr : i.toSource.instr = i := by cases i <;> simp [Instr.toSource, Source.instr]
  rw [assemble, if_pos hfits, hinstr]

/-! ### Words with any reserved bits (R72, R75) -/

/-- A word laid out as format H has its opcode, whatever its reserved bits are (R72). -/
theorem opField_layoutH (op : BitVec 4) (mt : MessageType) (pbf : BoundaryFlag) (cmd : CommandId) (len : Byte)
    (rsv : BitVec 4) : opField (op ++ mt ++ pbf ++ cmd ++ len ++ rsv) = op := by
  apply BitVec.eq_of_toNat_eq
  simp only [opField, toNat_field, toNat_append_add]
  omega

/-- A word laid out as format K has its opcode, whatever its reserved bits are (R75). -/
theorem opField_layoutK (op : BitVec 4) (rsv : BitVec 19) (n : BitVec 9) : opField (op ++ rsv ++ n) = op := by
  apply BitVec.eq_of_toNat_eq
  simp only [opField, toNat_field, toNat_append_add]
  omega

/-- The reserved bits of a word laid out as format K are [27:9] (R75). -/
theorem reservedField_layoutK (op : BitVec 4) (rsv : BitVec 19) (n : BitVec 9) :
    (op ++ rsv ++ n : Word).extractLsb' 9 19 = rsv := by
  apply BitVec.eq_of_toNat_eq
  simp only [toNat_field, toNat_append_add]
  omega

end Sys2Proof

namespace Sys2Proof.Machine

/-! ### Header bytes (R100 to R102) -/

/-- Decoding an encoded header gives back its fields, with rsv = 0 (R102). -/
theorem hdrDecode_hdrEncode (mt : MessageType) (pbf : BoundaryFlag) (cmd : CommandId) (len : Byte) :
    hdrDecode (hdrEncode mt pbf cmd len) = some ⟨mt, pbf, cmd, len, 0⟩ := by
  rw [hdrEncode_eq, hdrDecode_layout]
  rfl

/-- Byte 0 is the fields mt, pbf and the high 4 bits of cmd (R80). -/
theorem byte_eq_fields (b : Byte) : b.extractLsb' 5 3 ++ b.extractLsb' 4 1 ++ b.extractLsb' 0 4 = b := by
  apply BitVec.eq_of_toNat_eq
  simp only [toNat_append_add, toNat_field]
  omega

/-- Re-encoding a decoded header gives back its bytes with the reserved byte replaced by 0 (R102). -/
theorem hdrEncode_of_hdrDecode {b0 b1 b2 b3 : Byte} {h : Header} (hd : hdrDecode [b0, b1, b2, b3] = some h) :
    hdrEncode h.mt h.pbf h.cmd h.len = [b0, b1, 0, b3] := by
  obtain rfl := Option.some.inj hd
  have hhigh : (b0.extractLsb' 0 4 ++ b1).extractLsb' 8 4 = b0.extractLsb' 0 4 := BitVec.extractLsb'_append_eq_left
  have hlow : (b0.extractLsb' 0 4 ++ b1).extractLsb' 0 8 = b1 := BitVec.extractLsb'_append_eq_right
  rw [hdrEncode_eq, hhigh, hlow, byte_eq_fields]
  rfl

/-- Settles O8: injectivity is the first law read through `hdrDecode`. -/
theorem headerRoundTrip : Obligations.HeaderRoundTrip := by
  refine ⟨hdrDecode_hdrEncode, fun _ _ _ _ _ => hdrEncode_of_hdrDecode, fun _ _ _ _ _ _ _ _ h => ?_⟩
  have hfields := congrArg hdrDecode h
  rw [hdrDecode_hdrEncode, hdrDecode_hdrEncode] at hfields
  simpa using hfields

/-! ### Headers in registers (R58, R80) -/

/-- The register that holds an encoded header is its fields from bit 31 down, with a zero byte for rsv (R103). -/
theorem bytesRegister_hdrEncode (mt : MessageType) (pbf : BoundaryFlag) (cmd : CommandId) (len : Byte) :
    bytesRegister (hdrEncode mt pbf cmd len) = mt ++ pbf ++ cmd ++ 0#8 ++ len := by
  rw [hdrEncode_eq, bytesRegister_eq]
  apply BitVec.eq_of_toNat_eq
  simp only [toNat_append_add, toNat_field]
  omega

/-- A field inside a field of a word is a field of the word (R9). -/
theorem extractLsb'_extractLsb' {n lo len lo' len' : Nat} (w : BitVec n) (h : lo' + len' ≤ len) :
    (w.extractLsb' lo len).extractLsb' lo' len' = w.extractLsb' (lo + lo') len' := by
  apply BitVec.eq_of_getLsbD_eq
  intro i hi
  simp [hi, show lo' + i < len by omega, Nat.add_assoc]

/-- The fields of the header that a 32-bit register holds (R58, R80). -/
def wordHeader (w : Word) : Header where
  mt := w.extractLsb' 29 3
  pbf := w.extractLsb' 28 1
  cmd := w.extractLsb' 16 12
  len := w.extractLsb' 0 8
  rsv := w.extractLsb' 8 8

/-- Decoding the bytes of a register reads the header's fields in place (R101). -/
theorem hdrDecode_registerBytes (w : Word) : hdrDecode (registerBytes w) = some (wordHeader w) := by
  have hcmd : w.extractLsb' 24 4 ++ w.extractLsb' 16 8 = w.extractLsb' 16 12 :=
    BitVec.extractLsb'_append_extractLsb'_eq_extractLsb' rfl
  simp [registerBytes, hdrDecode, wordHeader, extractLsb'_extractLsb', hcmd]

/-- A register holds the bytes it was made from (R58). -/
theorem registerBytes_bytesRegister (b0 b1 b2 b3 : Byte) :
    registerBytes (bytesRegister [b0, b1, b2, b3]) = [b0, b1, b2, b3] := by
  simp only [bytesRegister_eq, registerBytes, List.cons.injEq, and_true]
  refine ⟨?_, ?_, ?_, ?_⟩ <;>
  · apply BitVec.eq_of_toNat_eq
    simp only [toNat_field, toNat_append_add]
    omega

/-- The register that holds an encoded header has the header's fields, with rsv = 0 (R106). -/
theorem wordHeader_bytesRegister_hdrEncode (mt : MessageType) (pbf : BoundaryFlag) (cmd : CommandId) (len : Byte) :
    wordHeader (bytesRegister (hdrEncode mt pbf cmd len)) = ⟨mt, pbf, cmd, len, 0⟩ := by
  apply Option.some.inj
  rw [← hdrDecode_registerBytes, ← hdrDecode_hdrEncode, hdrEncode, registerBytes_bytesRegister]

/-! ### HDR_ENC and HDR_DEC (R103, R105) -/

theorem exec_hdrEnc (mt : MessageType) (pbf : BoundaryFlag) (cmd : CommandId) (len : Byte) (s : State) :
    exec (.hdrEnc mt pbf cmd len) s =
      .next { s with hdrOut := bytesRegister (hdrEncode mt pbf cmd len) }.complete := rfl

/-- The decode registers take the fields of a header (R105). -/
def State.latchHeader (h : Header) (s : State) : State :=
  { s with decMt := h.mt, decPbf := h.pbf, decCmd := h.cmd, decLen := h.len, decRsv := h.rsv }

/-- HDR_DEC with 4 bytes or more decodes `DIN` (R105). -/
theorem exec_hdrDec_of_le {n : BitVec 9} (h : 4 ≤ n.toNat) (s : State) :
    exec (.hdrDec n) s = .next (s.latchHeader (wordHeader s.din)).complete := by
  change execHdrDec n s = _
  rw [execHdrDec, if_neg (Nat.not_lt.2 h), hdrDecode_registerBytes]
  rfl

/-- HDR_DEC with fewer than 4 bytes decodes nothing (R105). -/
theorem exec_hdrDec_of_lt {n : BitVec 9} (h : n.toNat < 4) (s : State) :
    exec (.hdrDec n) s = .next (s.raise .formatError) := if_pos h

/-- A HDR_DEC that ends with OK has decoded `DIN` (R105). -/
theorem execHdrDec_ok {n : BitVec 9} {s t : State} (h : exec (.hdrDec n) s = .next t) (hok : t.lastCode = 0) :
    t = (s.latchHeader (wordHeader s.din)).complete := by
  obtain hn | hn := Nat.lt_or_ge n.toNat 4
  · obtain rfl := Host.Outcome.next.inj ((exec_hdrDec_of_lt hn s).symm.trans h)
    simp at hok
  · exact (Host.Outcome.next.inj ((exec_hdrDec_of_le hn s).symm.trans h)).symm

/-- Settles O11: the copied register holds the header's fields, and HDR_DEC latches them. -/
theorem headerRoundTripThroughRegisters : Obligations.HeaderRoundTripThroughRegisters := by
  refine ⟨fun n s t h hok => ?_, fun mt pbf cmd len s => ?_⟩
  · obtain rfl := execHdrDec_ok h hok
    exact ⟨rfl, rfl, rfl, rfl, rfl⟩
  · refine ⟨_, _, exec_hdrEnc .., exec_hdrDec_of_le (by decide) _, ?_⟩
    simp [State.latchHeader, wordHeader_bytesRegister_hdrEncode]

/-- Settles O9: the word is format H's, and its reserved field is the only one that makes it illegal. -/
theorem hdrEncCompletes : Obligations.HdrEncCompletes := by
  intro mt pbf cmd len s
  refine ⟨?_, assemble_toSource (.hdrEnc mt pbf cmd len), decode_encode (.hdrEnc mt pbf cmd len), fun r hr => ?_⟩
  · rw [exec_hdrEnc, bytesRegister_hdrEncode]
    rfl
  · have hres : (0x1#4 ++ mt ++ pbf ++ cmd ++ len ++ r).extractLsb' 0 4 = r := BitVec.extractLsb'_append_eq_right
    exact illegalWordsAndOutOfRangeOperands.1 _ s (by simpa [opField_layoutH, hres] using hr)

/-- Settles O10: the word is format K's, and its reserved field is the only one that makes it illegal. -/
theorem hdrDecCompletes : Obligations.HdrDecCompletes := by
  intro n s
  refine ⟨fun h => exec_hdrDec_of_le h s, fun h => exec_hdrDec_of_lt h s, assemble_toSource (.hdrDec n),
    decode_encode (.hdrDec n), fun r hr => ?_⟩
  exact illegalWordsAndOutOfRangeOperands.1 _ s (by simpa [opField_layoutK, reservedField_layoutK] using hr)

end Sys2Proof.Machine
end

section
/-! SUPPORT. The Segmenter's commands (R121 to R127): the words of formats S and N with any reserved bits, what each
command does where it completes and where it raises, and that only SEG_START leaves ERROR. -/

namespace Sys2Proof

/-! ### Words with any reserved bits (R71, R73) -/

section FormatS
variable (op : BitVec 4) (mt : MessageType) (r : BitVec 1) (cmd : CommandId) (r' : BitVec 2) (len : BitVec 10)

/-- A word laid out as format S has its opcode, whatever its reserved bits are (R73). -/
theorem opField_layoutS : opField (op ++ mt ++ r ++ cmd ++ r' ++ len) = op := by
  apply BitVec.eq_of_toNat_eq
  simp only [opField, toNat_field, toNat_append_add]
  omega

/-- The upper reserved bit of a word laid out as format S is bit 24 (R73). -/
theorem reservedBit_layoutS : (op ++ mt ++ r ++ cmd ++ r' ++ len : Word).extractLsb' 24 1 = r := by
  apply BitVec.eq_of_toNat_eq
  simp only [toNat_field, toNat_append_add]
  omega

/-- The lower reserved bits of a word laid out as format S are [11:10] (R73). -/
theorem reservedField_layoutS : (op ++ mt ++ r ++ cmd ++ r' ++ len : Word).extractLsb' 10 2 = r' := by
  apply BitVec.eq_of_toNat_eq
  simp only [toNat_field, toNat_append_add]
  omega

end FormatS

/-- A word laid out as format N has its opcode, whatever its reserved bits are (R71). -/
theorem opField_layoutN (op : BitVec 4) (r : BitVec 28) : opField (op ++ r) = op := BitVec.extractLsb'_append_eq_left

/-- The reserved bits of a word laid out as format N are [27:0] (R71). -/
theorem reservedField_layoutN (op : BitVec 4) (r : BitVec 28) : (op ++ r : Word).extractLsb' 0 28 = r :=
  BitVec.extractLsb'_append_eq_right

end Sys2Proof

namespace Sys2Proof.Machine

/-! ### SET_MAXCHUNK (R121) -/

theorem exec_setMaxchunk_of_le {n : BitVec 9} (h : 1 ≤ n.toNat) (hmax : n.toNat ≤ Config.params.maxChunkLimit)
    (s : State) : exec (.setMaxchunk n) s = .next { s with segMaxChunk := n.setWidth 8 }.complete :=
  congrArg Host.Outcome.next (if_neg (by omega))

/-- Settles O12: the word is format K's, and its reserved field is the only one that makes it illegal. -/
theorem setMaxchunkCompletes : Obligations.SetMaxchunkCompletes := by
  intro n s
  refine ⟨fun h hmax => exec_setMaxchunk_of_le h hmax s, fun h => ?_, assemble_toSource (.setMaxchunk n),
    decode_encode (.setMaxchunk n), fun r hr => ?_⟩
  · exact congrArg Host.Outcome.next (setMaxchunkWith_out_of_range (h.imp_left (congrArg BitVec.toNat)) s)
  · exact illegalWordsAndOutOfRangeOperands.1 _ s (by simpa [opField_layoutK, reservedField_layoutK] using hr)

/-! ### SEG_START (R123) -/

/-- A new message opens (R123): latched with the chunk size, nothing of it emitted, ACTIVE. -/
def State.openMessage (mt : MessageType) (cmd : CommandId) (len : BitVec 10) (s : State) : State :=
  { s with
    segMt := mt, segCmd := cmd, segLen := len, segOff := 0, segNframes := 0, segChunk := s.segMaxChunk,
    segState := .active, segErr := 0 }

theorem exec_segStart_of_le {len : BitVec 10} (h : len.toNat ≤ Config.params.segCapacity) (mt : MessageType)
    (cmd : CommandId) (s : State) : exec (.segStart mt cmd len) s = .next (s.openMessage mt cmd len).complete :=
  congrArg Host.Outcome.next (if_neg (Nat.not_lt.2 h))

/-- Settles O13: the word is format S's, and its two reserved fields are the only ones that make it illegal. -/
theorem segStartCompletes : Obligations.SegStartCompletes := by
  intro mt cmd len s
  refine ⟨fun h => exec_segStart_of_le h mt cmd s,
    fun h => congrArg Host.Outcome.next (segStartWith_out_of_range h mt cmd s),
    assemble_toSource (.segStart mt cmd len), decode_encode (.segStart mt cmd len), fun r r' hr => ?_⟩
  exact illegalWordsAndOutOfRangeOperands.1 _ s
    (by simpa [opField_layoutS, reservedBit_layoutS, reservedField_layoutS] using hr)

/-! ### SEG_NEXT (R125) -/

section SegNext
variable {s : State}

theorem exec_segNext_of_chunk (h : s.segState = .active) {chunk : List Byte} (hc : s.chunkBytes = some chunk) :
    exec .segNext s = .next (s.emitFrame Config.params chunk).complete := by
  change segNextWith Config.params s = _
  rw [segNextWith, if_neg (not_not_intro h), hc]

theorem exec_segNext_of_undef (h : s.segState = .active) (hc : s.chunkBytes = none) :
    exec .segNext s = s.modelFault .undefinedRead := by
  change segNextWith Config.params s = _
  rw [segNextWith, if_neg (not_not_intro h), hc]

theorem exec_segNext_of_not_active (h : s.segState ≠ .active) : exec .segNext s = .next (s.raise .sequenceError) :=
  if_pos h

end SegNext

/-- MemWrite of two runs of bytes, one after the other, is MemWrite of both together. -/
theorem Memory.writeRange_append (m : Memory) (i : Nat) (xs ys : List Byte) :
    m.writeRange i (xs ++ ys) = (m.writeRange i xs).writeRange (i + xs.length) ys := by
  induction xs generalizing m i with
  | nil => rfl
  | cons x xs ih =>
    rw [List.cons_append, Memory.writeRange, ih, Memory.writeRange, List.length_cons, Nat.add_assoc, Nat.add_comm 1]

/-- SEG_NEXT writes the frame of the chunk to `FRAME_OUT` from cell 0 (R81, R125). -/
theorem State.emitFrame_frameOut_eq (p : Params) {s : State} {chunk : List Byte} (hlen : chunk.length = s.chunkLen) :
    (s.emitFrame p chunk).frameOut =
      s.frameOut.writeRange 0 (outboundFrame s.segMt s.segCmd chunk (s.chunkFlag p)) := by
  rw [State.emitFrame_frameOut, outboundFrame, Memory.writeRange_append, hlen]
  rfl

/-- The cells of `FRAME_OUT` after SEG_NEXT: the header, the chunk as it stands in `SEG_BUF`, and the old cells
(R125). -/
theorem State.emitFrame_frameOut_read (p : Params) {s : State} {chunk : List Byte} (hc : s.chunkBytes = some chunk)
    (j : Nat) :
    (s.emitFrame p chunk).frameOut.read j =
      if j < 4 then (hdrEncode s.segMt (s.chunkFlag p) s.segCmd (BitVec.ofNat 8 s.chunkLen))[j]?
      else if j < 4 + s.chunkLen then s.cell .segBuf (s.segOff.toNat + (j - 4))
      else s.cell .frameOut j := by
  obtain ⟨hlen, hcells⟩ := (Memory.readRange_eq_some ..).1 hc
  rw [State.emitFrame_frameOut_eq p hlen, Memory.read_writeRange, outboundFrame, List.length_append, hdrEncode_length,
    hlen]
  by_cases hhdr : j < 4
  · rw [if_pos (by omega), if_pos hhdr, Nat.sub_zero, List.getElem?_append_left hhdr]
  · rw [if_neg hhdr]
    by_cases hin : j < 4 + s.chunkLen
    · rw [if_pos (by omega), if_pos hin, List.getElem?_append_right (by simpa using hhdr)]
      exact (hcells (j - 4) (by omega)).symm
    · rw [if_neg (by omega), if_neg hin]
      rfl

/-- Settles O14: the chunk can be read exactly when its cells are defined; the word is format N's. -/
theorem segNextEmitsTheNextFrame : Obligations.SegNextEmitsTheNextFrame := by
  intro s n last pbf hn hlast hpbf
  obtain rfl : n = s.chunkLen := hn
  obtain rfl : last = s.chunkLast := Bool.eq_iff_iff.2 (by simpa [State.chunkLast] using hlast)
  obtain rfl : pbf = s.chunkFlag Config.params := hpbf
  refine ⟨fun hactive hdef => ?_, fun hactive hundef => ?_, fun h => exec_segNext_of_not_active h,
    assemble_toSource .segNext, decode_encode .segNext, fun r hr => ?_⟩
  · cases hc : s.chunkBytes with
    | none =>
      obtain ⟨k, hk, hnone⟩ := (Memory.readRange_eq_none ..).1 hc
      exact absurd (hdef k hk) (by simp [State.cell, State.buffer, hnone])
    | some chunk =>
      refine ⟨(s.emitFrame Config.params chunk).frameOut, (exec_segNext_of_chunk hactive hc).trans ?_, fun j => ?_⟩
      · rw [← hactive]
        rfl
      · rw [State.emitFrame_frameOut_read Config.params hc, hdrEncode_eq]
  · exact exec_segNext_of_undef hactive ((Memory.readRange_eq_none ..).2 hundef)
  · exact illegalWordsAndOutOfRangeOperands.1 _ s (by simpa [opField_layoutN, reservedField_layoutN] using hr)

/-! ### SEG_FAIL (R127) -/

theorem State.sendMayFail_iff {s : State} :
    s.sendMayFail = true ↔ (s.segState = .active ∨ s.segState = .done) ∧ s.segNframes ≠ 0 := by
  simp [State.sendMayFail]

theorem exec_segFail_of_sendMayFail {s : State} (h : s.sendMayFail = true) :
    exec .segFail s = .next { s with segState := .error, segErr := Code.transportError.bits }.complete := if_pos h

theorem exec_segFail_of_not_sendMayFail {s : State} (h : ¬s.sendMayFail = true) :
    exec .segFail s = .next (s.raise .sequenceError) := if_neg h

/-! ### What leaves ERROR (R127) -/

@[simp] theorem setMaxchunkWith_segState (p : Params) (n : BitVec 9) (s : State) :
    (setMaxchunkWith p n s).segState = s.segState := by
  unfold setMaxchunkWith
  split <;> rfl

@[simp] theorem State.settleFrame_segState (p : Params) (pbf : BoundaryFlag) (count : Nat) (s : State) :
    (s.settleFrame p pbf count).segState = s.segState := by
  obtain ⟨-, hs⟩ | ⟨-, hs⟩ | ⟨-, -, hs⟩ := s.settleFrame_cases p pbf count <;> simp [hs]

theorem consumeFrame_segState {p : Params} {n : Nat} {hdr : Header} {s t : State}
    (h : consumeFrame p n hdr s = .next t) : t.segState = s.segState := by
  obtain ⟨-, hr⟩ | ⟨-, hr⟩ | ⟨-, hr⟩ | ⟨-, hr⟩ | ⟨payload, -, -, -, hr⟩ := consumeFrame_cases p n hdr s
  case inr.inr.inr.inl => exact absurd (hr.symm.trans h) (by simp)
  all_goals
    obtain rfl := Host.Outcome.next.inj (hr.symm.trans h)
    simp

theorem rsmPushWith_segState {p : Params} {n : BitVec 9} {s t : State} (h : rsmPushWith p n s = .next t) :
    t.segState = s.segState := by
  obtain ⟨-, hr⟩ | ⟨-, -, hr⟩ | ⟨-, -, hr⟩ | ⟨-, -, hr⟩ | ⟨bytes, hdr, -, -, -, hr⟩ := rsmPushWith_cases p n s
  case inr.inr.inr.inl => exact absurd (hr.symm.trans h) (by simp)
  case inr.inr.inr.inr => exact consumeFrame_segState (hr.symm.trans h)
  all_goals
    obtain rfl := Host.Outcome.next.inj (hr.symm.trans h)
    simp

/-- A command that completes in ERROR leaves the Segmenter there or is SEG_START (R127). -/
theorem exec_segState_of_error {i : Instr} {s t : State} (hs : s.segState = .error) (h : exec i s = .next t) :
    t.segState = .error ∨ ∃ mt cmd len, i = .segStart mt cmd len := by
  cases i with
  | segStart mt cmd len => exact .inr ⟨mt, cmd, len, rfl⟩
  | hdrEnc | rsmStart =>
    obtain rfl := Host.Outcome.next.inj h
    exact .inl hs
  | hdrDec n =>
    obtain hn | hn := Nat.lt_or_ge n.toNat 4
    · obtain rfl := Host.Outcome.next.inj ((exec_hdrDec_of_lt hn s).symm.trans h)
      exact .inl hs
    · obtain rfl := Host.Outcome.next.inj ((exec_hdrDec_of_le hn s).symm.trans h)
      exact .inl hs
  | setMaxchunk n =>
    obtain rfl := Host.Outcome.next.inj h
    exact .inl ((setMaxchunkWith_segState ..).trans hs)
  | segNext =>
    obtain rfl := Host.Outcome.next.inj ((exec_segNext_of_not_active (by simp [hs])).symm.trans h)
    exact .inl hs
  | segFail =>
    obtain rfl := Host.Outcome.next.inj
      ((exec_segFail_of_not_sendMayFail (by simp [State.sendMayFail_iff, hs])).symm.trans h)
    exact .inl hs
  | rsmPush n => exact .inl ((rsmPushWith_segState h).trans hs)

/-- Settles O15: SEG_FAIL by whether a send may have failed; the word is format N's. -/
theorem segFailCompletes : Obligations.SegFailCompletes := by
  intro s
  refine ⟨fun hstate hframes => exec_segFail_of_sendMayFail (State.sendMayFail_iff.2 ⟨hstate, hframes⟩), fun h => ?_,
    assemble_toSource .segFail, decode_encode .segFail, fun r hr => ?_,
    fun i t hs h ht => (exec_segState_of_error hs h).resolve_left ht⟩
  · refine exec_segFail_of_not_sendMayFail fun hmay => ?_
    obtain ⟨hstate, hframes⟩ := State.sendMayFail_iff.1 hmay
    obtain h | h | h := h
    · simp [h] at hstate
    · simp [h] at hstate
    · exact hframes h
  · exact illegalWordsAndOutOfRangeOperands.1 _ s (by simpa [opField_layoutN, reservedField_layoutN] using hr)

end Sys2Proof.Machine
end

section
/-! SUPPORT. The segmentation of a payload (R120): the number of its chunks, and each chunk as `m` bytes of the payload
from `k * m`, or what is left of it. -/

namespace Sys2Proof.Machine

/-! ### The number of chunks (R120, R126) -/

section ChunkCount
variable {len m k : Nat}

/-- The ceiling of R120: past the first, a chunk exists exactly when it starts inside the payload. -/
theorem lt_chunkCount_iff (hm : 1 ≤ m) (hk : 1 ≤ k) : k < chunkCount len m ↔ k * m < len := by
  unfold chunkCount
  split
  · omega
  · rw [Nat.lt_iff_add_one_le, Nat.le_div_iff_mul_le hm, Nat.succ_mul]
    omega

theorem chunkCount_pos (hm : 1 ≤ m) : 1 ≤ chunkCount len m := by
  unfold chunkCount
  split
  · exact Nat.le_refl 1
  · exact (Nat.le_div_iff_mul_le hm).2 (by omega)

/-- The chunks reach the end of the payload. -/
theorem le_chunkCount_mul (hm : 1 ≤ m) : len ≤ chunkCount len m * m :=
  Nat.not_lt.1 fun h => Nat.lt_irrefl _ ((lt_chunkCount_iff hm (chunkCount_pos hm)).2 h)

/-- Every chunk of a payload that is not empty starts inside it. -/
theorem mul_lt_of_lt_chunkCount (hm : 1 ≤ m) (hlen : 0 < len) (hk : k < chunkCount len m) : k * m < len := by
  obtain rfl | hpos := Nat.eq_zero_or_pos k
  · simpa using hlen
  · exact (lt_chunkCount_iff hm hpos).1 hk

theorem mul_le_of_lt_chunkCount (hm : 1 ≤ m) (hk : k < chunkCount len m) : k * m ≤ len := by
  obtain rfl | hpos := Nat.eq_zero_or_pos k
  · simp
  · exact Nat.le_of_lt ((lt_chunkCount_iff hm hpos).1 hk)

end ChunkCount

/-! ### The chunks (R120) -/

variable (payload : List Byte) (m k : Nat)

theorem chunkAt_length : (chunkAt payload m k).length = min m (payload.length - k * m) := by
  rw [chunkAt, List.length_take, List.length_drop, Nat.succ_mul]
  omega

/-- The cut at the end of the payload is the one that `take` makes anyway. -/
theorem chunkAt_eq_take_drop : chunkAt payload m k = (payload.drop (k * m)).take m := by
  rw [chunkAt, List.take_eq_take_iff, List.length_drop, Nat.succ_mul]
  omega

/-- The first `k` chunks are the first `k * m` bytes of the payload. -/
theorem flatten_chunks : ((List.range k).map (chunkAt payload m)).flatten = payload.take (k * m) := by
  induction k with
  | zero => simp
  | succ k ih =>
    rw [List.range_succ, List.map_append, List.flatten_append, ih, List.map_singleton, List.flatten_singleton,
      chunkAt_eq_take_drop, Nat.succ_mul, List.take_add]

variable (p : Params)

@[simp] theorem segment_length : (segment p payload m).length = chunkCount payload.length m := by
  rw [segment, List.length_map, List.length_range]

theorem segment_getElem? {k : Nat} (h : k < chunkCount payload.length m) :
    (segment p payload m)[k]? = some (chunkAt payload m k, flagAt p payload.length m k) := by
  rw [segment, List.getElem?_map, List.getElem?_range h, Option.map_some]

theorem segment_map_fst :
    (segment p payload m).map Prod.fst = (List.range (chunkCount payload.length m)).map (chunkAt payload m) := by
  rw [segment, List.map_map]
  rfl

/-- Settles O16: the chunks by their lengths, their number by the bytes they reach. -/
theorem chunksPartitionThePayload : Obligations.ChunksPartitionThePayload := by
  intro payload m hm _ chunks count
  have hpos : 1 ≤ count := chunkCount_pos hm
  have hreach : payload.length ≤ count * m := le_chunkCount_mul hm
  have hstart : (count - 1) * m ≤ payload.length := mul_le_of_lt_chunkCount hm (by omega)
  have hinside : 0 < payload.length → (count - 1) * m < payload.length := fun hlen =>
    mul_lt_of_lt_chunkCount hm hlen (by omega)
  refine ⟨segment_length .., hpos, hreach, hstart, hinside, ?_, fun k hk => ?_, ?_⟩
  · rw [segment_map_fst, flatten_chunks, List.take_of_length_le hreach]
  · refine ⟨chunkAt payload m k, (segment_getElem? _ _ _ (Nat.lt_of_succ_lt hk)).trans ?_, ?_⟩
    · rw [flagAt, if_neg (show k ≠ count - 1 by omega)]
    · have hend : (k + 1) * m < payload.length := (lt_chunkCount_iff hm (by omega)).1 hk
      rw [chunkAt_length]
      rw [Nat.succ_mul] at hend
      omega
  · have hlast : (chunkAt payload m (count - 1)).length = payload.length - (count - 1) * m := by
      have hsucc : (count - 1) * m + m = count * m := by rw [← Nat.succ_mul, Nat.succ_eq_add_one,
        Nat.sub_add_cancel hpos]
      rw [chunkAt_length]
      omega
    refine ⟨chunkAt payload m (count - 1), (segment_getElem? _ _ _ (by omega)).trans ?_, hlast, ?_⟩
    · rw [flagAt, if_pos rfl]
    · rw [← List.length_eq_zero_iff, hlast, ← List.length_eq_zero_iff]
      omega

end Sys2Proof.Machine
end

section
/-! SUPPORT. The Segmenter emits the segmentation (R124, R126): after SEG_START and `k` SEG_NEXT commands the registers
stand at the start of chunk `k`, so that SEG_NEXT emits the frame of that chunk. -/

namespace Sys2Proof.Machine

/-! ### Commands one after another (R60) -/

theorem execAll_append {xs : List Instr} {s t : State} (h : execAll xs s = .next t) (ys : List Instr) :
    execAll (xs ++ ys) s = execAll ys t := by
  induction xs generalizing s with
  | nil => rw [Host.Outcome.next.inj h, List.nil_append]
  | cons i xs ih =>
    rw [List.cons_append, execAll]
    rw [execAll] at h
    split at h
    · next u hu => exact ih h
    · next hno => exact absurd h (hno t)

theorem execAll_singleton {i : Instr} {s t : State} (h : exec i s = .next t) : execAll [i] s = .next t := by
  rw [execAll, h]
  rfl

/-- A command repeated once more after a run that ends in `t`. -/
theorem execAll_replicate_succ {pre : List Instr} {i : Instr} {k : Nat} {s t u : State}
    (h : execAll (pre ++ List.replicate k i) s = .next t) (hi : exec i t = .next u) :
    execAll (pre ++ List.replicate (k + 1) i) s = .next u := by
  rw [List.replicate_succ', ← List.append_assoc, execAll_append h, execAll_singleton hi]

/-! ### The frame emitted (R34, R40, R81) -/

/-- The frame in `FRAME_OUT` after SEG_NEXT is the frame of its chunk. -/
theorem State.emitFrame_output (p : Params) {s : State} {chunk : List Byte} (hlen : chunk.length = s.chunkLen) :
    (s.emitFrame p chunk).output = some (outboundFrame s.segMt s.segCmd chunk (s.chunkFlag p)) := by
  have hframe : (s.emitFrame p chunk).frameOutLen.toNat =
      (outboundFrame s.segMt s.segCmd chunk (s.chunkFlag p)).length := by
    have hchunk := s.chunkLen_lt
    rw [State.emitFrame_frameOutLen, BitVec.toNat_ofNat, outboundFrame, List.length_append, hdrEncode_length, hlen]
    exact Nat.mod_eq_of_lt (show 4 + s.chunkLen < 512 by omega)
  rw [State.output, State.emitFrame_frameOut_eq p hlen, hframe, Memory.readRange_writeRange]

/-! ### How far a segmentation has got (R124) -/

/-- After SEG_START of the payload at chunk size `m`, `k` frames have been emitted, the last of them in `FRAME_OUT`. -/
structure SegProgress (mt : MessageType) (cmd : CommandId) (payload : List Byte) (m k : Nat) (s : State) : Prop where
  segMt : s.segMt = mt
  segCmd : s.segCmd = cmd
  len : s.segLen.toNat = payload.length
  chunk : s.segChunk.toNat = m
  off : s.segOff.toNat = min (k * m) payload.length
  frames : s.segNframes.toNat = k
  bytes : s.segBuf.readRange 0 payload.length = some payload
  state : s.segState = if k = chunkCount payload.length m then .done else .active
  code : s.lastCode = 0
  output : 1 ≤ k → s.output = some
    (outboundFrame mt cmd (chunkAt payload m (k - 1)) (flagAt Config.params payload.length m (k - 1)))

namespace SegProgress
variable {mt : MessageType} {cmd : CommandId} {payload : List Byte} {m k : Nat} {s : State}

/-- SEG_START opens the segmentation before its first frame (R123). -/
theorem openMessage {len : BitVec 10} (hlen : payload.length = len.toNat) (hm : 1 ≤ s.segMaxChunk.toNat)
    (hbytes : s.segBuf.readRange 0 payload.length = some payload) :
    SegProgress mt cmd payload s.segMaxChunk.toNat 0 (s.openMessage mt cmd len).complete where
  segMt := rfl
  segCmd := rfl
  len := hlen.symm
  chunk := rfl
  off := by simp [State.openMessage]
  frames := rfl
  bytes := hbytes
  state := (if_neg (Nat.ne_of_lt (chunkCount_pos hm))).symm
  code := rfl
  output := fun h => absurd h (by decide)

section Next
variable (h : SegProgress mt cmd payload m k s) (hm : 1 ≤ m) (hk : k < chunkCount payload.length m)
include h hm hk

/-- Before the last frame SEG_OFF is where chunk `k` starts (R124). -/
theorem off_eq : s.segOff.toNat = k * m := by
  rw [h.off, Nat.min_eq_left (mul_le_of_lt_chunkCount hm hk)]

theorem chunkLen_eq : s.chunkLen = (chunkAt payload m k).length := by
  rw [State.chunkLen, h.chunk, h.len, h.off_eq hm hk, chunkAt_length]

/-- The bytes SEG_NEXT reads are chunk `k` (R124). -/
theorem chunkBytes_eq : s.chunkBytes = some (chunkAt payload m k) := by
  have hstart := mul_le_of_lt_chunkCount hm hk
  have hlen := h.chunkLen_eq hm hk
  rw [chunkAt_length] at hlen
  have hread := Memory.readRange_drop_take h.bytes (lo := k * m) (len := s.chunkLen) (by omega)
  rw [State.chunkBytes, h.off_eq hm hk, ← Nat.zero_add (k * m), hread, chunkAt_eq_take_drop,
    List.take_eq_take_iff.2]
  rw [List.length_drop]
  omega

/-- SEG_NEXT's chunk is the last exactly at chunk `K − 1` (R124). -/
theorem chunkLast_iff : s.chunkLast = true ↔ k + 1 = chunkCount payload.length m := by
  have hnext := lt_chunkCount_iff (len := payload.length) hm (Nat.succ_pos k)
  have hstart := mul_le_of_lt_chunkCount hm hk
  rw [State.chunkLast, decide_eq_true_iff, h.chunkLen_eq hm hk, h.off_eq hm hk, h.len, chunkAt_length]
  rw [Nat.succ_eq_add_one, Nat.succ_mul] at hnext
  omega

theorem chunkFlag_eq : s.chunkFlag Config.params = flagAt Config.params payload.length m k := by
  have hlast : s.chunkLast = true ↔ k = chunkCount payload.length m - 1 := (h.chunkLast_iff hm hk).trans (by omega)
  simp only [State.chunkFlag, flagAt, hlast]

/-- Before its last frame a segmentation is ACTIVE, and SEG_NEXT emits the frame of chunk `k` (R125). -/
theorem exec_segNext :
    exec .segNext s = .next (s.emitFrame Config.params (chunkAt payload m k)).complete :=
  exec_segNext_of_chunk (h.state.trans (if_neg (Nat.ne_of_lt hk))) (h.chunkBytes_eq hm hk)

/-- The frame of chunk `k` takes the segmentation on by one (R124). -/
theorem next : SegProgress mt cmd payload m (k + 1) (s.emitFrame Config.params (chunkAt payload m k)).complete where
  segMt := h.segMt
  segCmd := h.segCmd
  len := h.len
  chunk := h.chunk
  off := by
    have hstart := mul_le_of_lt_chunkCount hm hk
    have hlen : payload.length < 1024 := h.len ▸ s.segLen.isLt
    rw [State.complete_segOff, State.emitFrame_segOff, BitVec.toNat_ofNat, h.off_eq hm hk, h.chunkLen_eq hm hk,
      chunkAt_length, Nat.succ_mul, Nat.mod_eq_of_lt (by omega)]
    omega
  frames := by
    have hfits : k + 1 < 1024 := by
      have hlen : payload.length < 1024 := h.len ▸ s.segLen.isLt
      obtain rfl | hpos := Nat.eq_zero_or_pos k
      · decide
      · have hstart := (lt_chunkCount_iff hm hpos).1 hk
        have hle := Nat.le_mul_of_pos_right k hm
        omega
    rw [State.complete_segNframes, State.emitFrame_segNframes, BitVec.toNat_ofNat, h.frames]
    exact Nat.mod_eq_of_lt hfits
  bytes := h.bytes
  state := by
    have hstate : s.segState = .active := h.state.trans (if_neg (Nat.ne_of_lt hk))
    simp only [State.complete_segState, State.emitFrame_segState, h.chunkLast_iff hm hk, hstate]
  code := rfl
  output := fun _ => by
    have hout := State.emitFrame_output Config.params (h.chunkLen_eq hm hk).symm
    rw [h.segMt, h.segCmd, h.chunkFlag_eq hm hk] at hout
    exact hout

end Next

/-- The run of R126: SEG_START and `k` SEG_NEXT commands, up to the number of the chunks. -/
theorem of_run {len : BitVec 10} (hlen : payload.length = len.toNat) (hcap : len.toNat ≤ Config.params.segCapacity)
    (hm : 1 ≤ s.segMaxChunk.toNat) (hbytes : s.segBuf.readRange 0 payload.length = some payload)
    (hk : k ≤ chunkCount payload.length s.segMaxChunk.toNat) :
    ∃ t, execAll ([.segStart mt cmd len] ++ List.replicate k .segNext) s = .next t ∧
      SegProgress mt cmd payload s.segMaxChunk.toNat k t := by
  induction k with
  | zero => exact ⟨_, execAll_singleton (exec_segStart_of_le hcap mt cmd s), openMessage hlen hm hbytes⟩
  | succ k ih =>
    obtain ⟨t, hrun, ht⟩ := ih (Nat.le_of_lt hk)
    exact ⟨_, execAll_replicate_succ hrun (ht.exec_segNext hm hk), ht.next hm hk⟩

end SegProgress

/-- Settles O17: each frame from the progress the run has made, and SEQUENCE_ERROR because the last left DONE. -/
theorem segmenterEmitsTheSegmentation : Obligations.SegmenterEmitsTheSegmentation := by
  intro s mt cmd payload len hlen hcap hm hbytes m count
  refine ⟨fun k hk hle => ?_, ?_⟩
  · obtain ⟨t, hrun, ht⟩ := SegProgress.of_run hlen hcap hm hbytes hle (mt := mt) (cmd := cmd)
    exact ⟨t, hrun, ht.code, ht.output hk, ht.frames, ht.state⟩
  · obtain ⟨t, hrun, ht⟩ := SegProgress.of_run hlen hcap hm hbytes (Nat.le_refl count) (mt := mt) (cmd := cmd)
    have hdone : t.segState = .done := ht.state.trans (if_pos rfl)
    exact ⟨_, execAll_replicate_succ hrun (exec_segNext_of_not_active (by simp [hdone])), rfl⟩

end Sys2Proof.Machine
end

section
/-! SUPPORT. The Reassembler's commands (R141 to R148): the words of format C with any reserved bits, RSM_PUSH branch by
branch, and the cells of `FRAME_IN` that it reads. -/

namespace Sys2Proof

/-! ### Words with any reserved bits (R74) -/

section FormatC
variable (op : BitVec 4) (r : BitVec 4) (cmd : CommandId) (r' : BitVec 12)

/-- A word laid out as format C has its opcode, whatever its reserved bits are (R74). -/
theorem opField_layoutC : opField (op ++ r ++ cmd ++ r') = op := by
  apply BitVec.eq_of_toNat_eq
  simp only [opField, toNat_field, toNat_append_add]
  omega

/-- The upper reserved bits of a word laid out as format C are [27:24] (R74). -/
theorem upperReserved_layoutC : (op ++ r ++ cmd ++ r' : Word).extractLsb' 24 4 = r := by
  apply BitVec.eq_of_toNat_eq
  simp only [toNat_field, toNat_append_add]
  omega

/-- The lower reserved bits of a word laid out as format C are [11:0] (R74). -/
theorem lowerReserved_layoutC : (op ++ r ++ cmd ++ r' : Word).extractLsb' 0 12 = r' :=
  BitVec.extractLsb'_append_eq_right

end FormatC

end Sys2Proof

namespace Sys2Proof.Machine

/-! ### RSM_START (R141) -/

/-- A new reassembly opens (R141): the expected command_id latched, nothing consumed, COLLECTING. -/
def State.openReassembly (cmd : CommandId) (s : State) : State :=
  { s with rsmCmd := cmd, rsmLen := 0, rsmNframes := 0, rsmState := .collecting, rsmErr := 0, rsmLimitCause := 0 }

theorem exec_rsmStart (cmd : CommandId) (s : State) :
    exec (.rsmStart cmd) s = .next (s.openReassembly cmd).complete := rfl

/-- Settles O19: the word is format C's, and its two reserved fields are the only ones that make it illegal. -/
theorem rsmStartCompletes : Obligations.RsmStartCompletes := by
  intro cmd s
  refine ⟨exec_rsmStart cmd s, assemble_toSource (.rsmStart cmd), decode_encode (.rsmStart cmd), fun r r' hr => ?_⟩
  exact illegalWordsAndOutOfRangeOperands.1 _ s
    (by simpa [opField_layoutC, upperReserved_layoutC, lowerReserved_layoutC] using hr)

/-! ### The end of a frame (R146) -/

section SettleFrame
variable {p : Params} {pbf : BoundaryFlag} {count : Nat} (s : State)

/-- A LAST frame seals, past the frame limit only where `LAST_BEATS_LIMIT` holds. -/
theorem State.settleFrame_of_last (hpbf : pbf = p.pbfLast) (h : p.lastBeatsLimit = true ∨ count ≤ p.maxFrames) :
    s.settleFrame p pbf count = State.complete { s with rsmState := .sealed } := by
  rw [State.settleFrame, if_neg (by rintro ⟨hfalse, hover⟩; simp [hfalse] at h; omega), if_pos hpbf]

/-- A frame past the limit fails unless it is a LAST frame that beats the limit. -/
theorem State.settleFrame_of_over (h : pbf ≠ p.pbfLast ∨ p.lastBeatsLimit = false) (hover : p.maxFrames < count) :
    s.settleFrame p pbf count = s.rsmFail .limitExceeded 1 := by
  obtain hlast | hlimit := h
  · rw [State.settleFrame, if_neg hlast, if_pos hover, ite_self]
  · rw [State.settleFrame, if_pos ⟨hlimit, hover⟩]

/-- A NOT_LAST frame within the limit leaves the buffer COLLECTING. -/
theorem State.settleFrame_of_more (hpbf : pbf ≠ p.pbfLast) (h : count ≤ p.maxFrames) :
    s.settleFrame p pbf count = s.complete := by
  rw [State.settleFrame, if_neg fun hlimit => Nat.not_lt.2 h hlimit.2, if_neg hpbf, if_neg (Nat.not_lt.2 h)]

end SettleFrame

/-! ### RSM_PUSH from the decoded header on (R144 to R147) -/

section ConsumeFrame
variable {p : Params} {n : Nat} {h : Header} {s : State}

theorem consumeFrame_of_mismatch (hproto : h.cmd ≠ s.rsmCmd ∨ h.mt ≠ p.mtResponse) :
    consumeFrame p n h s = .next (s.rsmFail .protocolMismatch 0) := if_pos hproto

variable (hcmd : h.cmd = s.rsmCmd) (hmt : h.mt = p.mtResponse)
include hcmd hmt

theorem consumeFrame_of_malformed (hbad : p.maxChunkLimit < h.len.toNat ∨ n < p.inPayOff + h.len.toNat) :
    consumeFrame p n h s = .next (s.rsmFail .formatError 0) := by
  rw [consumeFrame, if_neg (by simp [hcmd, hmt]), if_pos hbad]

variable (hchunk : h.len.toNat ≤ p.maxChunkLimit) (hwhole : p.inPayOff + h.len.toNat ≤ n)
include hchunk hwhole

theorem consumeFrame_of_oversize (hover : p.maxReassembledSize < s.rsmLen.toNat + h.len.toNat) :
    consumeFrame p n h s = .next (s.countFrame.rsmFail .limitExceeded 2) := by
  rw [consumeFrame, if_neg (by simp [hcmd, hmt]), if_neg (by omega), if_pos hover]

theorem consumeFrame_of_payload (hfits : s.rsmLen.toNat + h.len.toNat ≤ p.maxReassembledSize) {payload : List Byte}
    (hpayload : s.inboundPayload p h.len.toNat = some payload) :
    consumeFrame p n h s =
      .next ((s.countFrame.appendPayload payload).settleFrame p h.pbf (s.rsmNframes.toNat + 1)) := by
  rw [consumeFrame, if_neg (by simp [hcmd, hmt]), if_neg (by omega), if_neg (by omega), hpayload]

end ConsumeFrame

/-- Settles O25: the payload is appended, and the frame ends by its flag and the count. -/
theorem sealingAndFrameLimit : Obligations.SealingAndFrameLimit := by
  intro p s h n payload hcmd hmt hchunk hwhole hfits hpayload count taken failed
  have htaken : taken = s.countFrame.appendPayload payload := by
    rw [State.appendPayload, Memory.readRange_length hpayload]
    rfl
  rw [consumeFrame_of_payload hcmd hmt hchunk hwhole hfits hpayload, ← htaken]
  refine ⟨fun hlast h => ?_, fun hlast hover => ?_, fun hlimit hover => ?_, fun hlast h => ?_⟩
  · exact congrArg Host.Outcome.next (taken.settleFrame_of_last hlast h)
  · exact congrArg Host.Outcome.next (taken.settleFrame_of_over (.inl hlast) hover)
  · exact congrArg Host.Outcome.next (taken.settleFrame_of_over (.inr hlimit) hover)
  · exact congrArg Host.Outcome.next (taken.settleFrame_of_more hlast h)

/-! ### RSM_PUSH up to the decoded header (R143, R164) -/

section RsmPush
variable {n : BitVec 9} {s : State}

theorem exec_rsmPush_of_not_collecting (h : s.rsmState ≠ .collecting) :
    exec (.rsmPush n) s = .next (s.raise .sequenceError) := if_pos h

variable (hc : s.rsmState = .collecting) (hn : n.toNat ≤ Config.params.frameInCapacity)
include hc hn

theorem exec_rsmPush_of_short (h : n.toNat < Config.params.minInbound) :
    exec (.rsmPush n) s = .next (s.rsmFail .formatError 0) := by
  change rsmPushWith Config.params n s = _
  rw [rsmPushWith, if_neg (not_not_intro hc), if_neg (Nat.not_lt.2 hn), if_pos h]

theorem exec_rsmPush_of_header (hmin : Config.params.minInbound ≤ n.toNat) {bytes : List Byte} {h : Header}
    (hbytes : s.inboundHeader Config.params = some bytes) (hdec : hdrDecode bytes = some h) :
    exec (.rsmPush n) s = consumeFrame Config.params n.toNat h s := by
  change rsmPushWith Config.params n s = _
  rw [rsmPushWith, if_neg (not_not_intro hc), if_neg (Nat.not_lt.2 hn), if_neg (Nat.not_lt.2 hmin), hbytes]
  simp only [hdec]

end RsmPush

/-! ### The inbound frame in `FRAME_IN` (R83) -/

/-- The header bytes that RSM_PUSH reads are the four cells of the header. -/
theorem State.headerIs.inboundHeader {s : State} {b0 b1 b2 b3 : Byte} (h : s.headerIs b0 b1 b2 b3) :
    s.inboundHeader Config.params = some [b0, b1, b2, b3] := by
  obtain ⟨h0, h1, h2, h3⟩ := h
  refine (Memory.readRange_eq_some ..).2 ⟨rfl, fun k hk => ?_⟩
  have hk : k < 4 := hk
  interval_cases k
  exacts [h0, h1, h2, h3]

/-- A header with the expected first two bytes decodes to RESPONSE and the expected command_id (R80, R144). -/
theorem hdrDecode_accepted (pbf : BoundaryFlag) (cmd : CommandId) (rsv len : Byte) :
    hdrDecode [acceptedByte0 pbf cmd, cmd.extractLsb' 0 8, rsv, len] =
      some ⟨Config.params.mtResponse, pbf, cmd, len, rsv⟩ := hdrDecode_layout ..

/-- A payload whose cells are all defined can be read. -/
theorem State.exists_inboundPayload {s : State} {len : Nat}
    (h : ∀ k, k < len → (s.cell .frameIn (8 + k)).isSome) :
    ∃ payload, s.inboundPayload Config.params len = some payload := by
  cases hp : s.inboundPayload Config.params len with
  | some payload => exact ⟨payload, rfl⟩
  | none =>
    obtain ⟨k, hk, hnone⟩ := (Memory.readRange_eq_none ..).1 hp
    have hcell : s.cell .frameIn (8 + k) = none := hnone
    exact absurd (h k hk) (by simp [hcell])

/-- A frame that passes every check up to the size limit is consumed by its header (R143). -/
theorem State.accepts.exec_rsmPush {s : State} {n : BitVec 9} {pbf : BoundaryFlag} {rsv len : Byte}
    (h : s.accepts n pbf rsv len) :
    exec (.rsmPush n) s =
      consumeFrame Config.params n.toNat ⟨Config.params.mtResponse, pbf, s.rsmCmd, len, rsv⟩ s :=
  exec_rsmPush_of_header h.state h.count (Nat.le_of_add_right_le h.whole) h.header.inboundHeader
    (hdrDecode_accepted ..)

/-! ### The failures of RSM_PUSH (R144, R145, R147) -/

/-- Settles O22: the header's fields are compared once the length check has passed. -/
theorem protocolMismatchFails : Obligations.ProtocolMismatchFails := by
  intro s n b0 b1 b2 b3 hc hn hheader hproto
  refine ⟨fun hmin => ?_, fun hshort => exec_rsmPush_of_short hc hn hshort⟩
  rw [exec_rsmPush_of_header hc hn hmin hheader.inboundHeader rfl]
  exact consumeFrame_of_mismatch hproto

/-- Settles O23: the length check comes before the header, the payload's format after the protocol check. -/
theorem malformedFramesFail : Obligations.MalformedFramesFail := by
  intro s n hc hn
  refine ⟨fun hshort => exec_rsmPush_of_short hc hn hshort, fun pbf rsv len hmin hheader hbad => ?_⟩
  rw [exec_rsmPush_of_header hc hn hmin hheader.inboundHeader (hdrDecode_accepted ..)]
  exact consumeFrame_of_malformed rfl rfl hbad

/-- Settles O24: above the limit the frame is only counted; at the limit a LAST frame is appended and seals, since R7
has `LAST_BEATS_LIMIT` true. -/
theorem sizeLimitFails : Obligations.SizeLimitFails := by
  intro s n pbf rsv len h
  refine ⟨fun hover => ?_, fun hexact hlast hdef => ?_⟩
  · exact h.exec_rsmPush.trans (consumeFrame_of_oversize rfl rfl h.chunk h.whole hover)
  · obtain ⟨payload, hpayload⟩ := State.exists_inboundPayload hdef
    have hpush := h.exec_rsmPush.trans
      (consumeFrame_of_payload rfl rfl h.chunk h.whole (Nat.le_of_eq hexact) hpayload)
    rw [State.settleFrame_of_last _ hlast (.inl rfl)] at hpush
    refine ⟨_, hpush, rfl, rfl, ?_⟩
    rw [State.complete_rsmLen, State.appendPayload_rsmLen, State.countFrame_rsmLen, Memory.readRange_length hpayload,
      hexact]
    rfl

/-! ### What RSM_PUSH reads of `FRAME_IN` (R148) -/

theorem State.settleFrame_withFrameIn (p : Params) (pbf : BoundaryFlag) (count : Nat) (s : State) (m : Memory) :
    State.settleFrame p pbf count { s with frameIn := m } = { s.settleFrame p pbf count with frameIn := m } := by
  unfold State.settleFrame
  split_ifs <;> rfl

/-- From the decoded header on, only the payload is read of `FRAME_IN`, and the header's reserved byte is not
checked. -/
theorem consumeFrame_withFrameIn {p : Params} {n : Nat} {h : Header} {s t : State} {m : Memory} (rsv : Byte)
    (hpay : State.inboundPayload p h.len.toNat { s with frameIn := m } = s.inboundPayload p h.len.toNat)
    (ht : consumeFrame p n h s = .next t) :
    consumeFrame p n { h with rsv := rsv } { s with frameIn := m } = .next { t with frameIn := m } := by
  unfold consumeFrame at ht ⊢
  simp only [hpay]
  split_ifs at ht ⊢
  case neg =>
    cases hp : s.inboundPayload p h.len.toNat with
    | none => simp [hp] at ht
    | some payload =>
      simp only [hp] at ht ⊢
      obtain rfl := Host.Outcome.next.inj ht
      exact congrArg Host.Outcome.next
        (State.settleFrame_withFrameIn p h.pbf _ (s.countFrame.appendPayload payload) m)
  all_goals
    obtain rfl := Host.Outcome.next.inj ht
    rfl

/-- Header bytes that can be read are four, and decode (R101). -/
theorem State.inboundHeader_decodes {p : Params} {s : State} {bytes : List Byte} (hb : s.inboundHeader p = some bytes) :
    ∃ h, hdrDecode bytes = some h := by
  have hlen : bytes.length = 4 := Memory.readRange_length hb
  refine Option.ne_none_iff_exists'.1 fun hnone => ?_
  rw [hdrDecode_eq_none] at hnone
  omega

/-- RSM_PUSH does the same on another `FRAME_IN` that holds the same header up to the reserved byte, and the same
payload. -/
theorem exec_rsmPush_withFrameIn {n : BitVec 9} {s t : State} {m : Memory}
    (hsame : ∀ bytes h, s.inboundHeader Config.params = some bytes → hdrDecode bytes = some h →
      ∃ bytes' rsv, State.inboundHeader Config.params { s with frameIn := m } = some bytes' ∧
        hdrDecode bytes' = some { h with rsv := rsv } ∧
        State.inboundPayload Config.params h.len.toNat { s with frameIn := m } =
          s.inboundPayload Config.params h.len.toNat)
    (ht : exec (.rsmPush n) s = .next t) :
    exec (.rsmPush n) { s with frameIn := m } = .next { t with frameIn := m } := by
  change rsmPushWith Config.params n s = _ at ht
  change rsmPushWith Config.params n _ = _
  unfold rsmPushWith at ht ⊢
  split_ifs at ht ⊢
  case neg =>
    cases hb : s.inboundHeader Config.params with
    | none => simp [hb] at ht
    | some bytes =>
      obtain ⟨h, hdec⟩ := State.inboundHeader_decodes hb
      obtain ⟨bytes', rsv, hb', hdec', hpay⟩ := hsame bytes h hb hdec
      simp only [hb, hdec] at ht
      simp only [hb', hdec']
      exact consumeFrame_withFrameIn rsv hpay ht
  all_goals
    obtain rfl := Host.Outcome.next.inj ht
    rfl

/-- The reserved byte is the third header byte and is decoded to `rsv` alone (R101). -/
theorem hdrDecode_set_rsv {bytes : List Byte} {h : Header} (hd : hdrDecode bytes = some h) (v : Byte) :
    hdrDecode (bytes.set 2 v) = some { h with rsv := v } := by
  rcases bytes with _ | ⟨b0, _ | ⟨b1, _ | ⟨b2, _ | ⟨b3, rest⟩⟩⟩⟩ <;> simp [hdrDecode] at hd
  simp [hdrDecode, ← hd]

/-- A byte written inside a range that can be read changes that byte of MemRead (R11). -/
theorem Memory.readRange_write {m : Memory} {i n : Nat} {bs : List Byte} (h : m.readRange i n = some bs) (k : Nat)
    (v : Byte) : (m.write (i + k) v).readRange i n = some (bs.set k v) := by
  obtain ⟨hlen, hcells⟩ := (m.readRange_eq_some i n bs).1 h
  refine (Memory.readRange_eq_some ..).2 ⟨by rw [List.length_set, hlen], fun j hj => ?_⟩
  by_cases hjk : k = j
  · rw [hjk, Memory.read_write_same, List.getElem?_set_self (by omega)]
  · rw [Memory.read_write_other _ _ (by omega), List.getElem?_set_ne hjk, hcells j hj]

/-- Settles O27: the cells outside the header and the payload are in neither range read, and cell 6 is the header's
reserved byte. -/
theorem pushReadsOnlyHeaderAndPayload : Obligations.PushReadsOnlyHeaderAndPayload := by
  intro n s t m hheader hpayload ht
  refine ⟨exec_rsmPush_withFrameIn (fun bytes h hb hdec => ⟨bytes, h.rsv, ?_, hdec, ?_⟩) ht, fun v _ =>
    exec_rsmPush_withFrameIn (fun bytes h hb hdec => ⟨bytes.set 2 v, v, ?_, hdrDecode_set_rsv hdec v, ?_⟩) ht⟩
  · exact (Memory.readRange_congr fun k hk =>
      hheader (4 + k) (Nat.le_add_right ..) (Nat.add_lt_add_left hk 4)).trans hb
  · exact Memory.readRange_congr fun k hk =>
      hpayload h.len (State.inboundHeader_len hb hdec) (8 + k) (Nat.le_add_right ..) (Nat.add_lt_add_left hk 8)
  · exact Memory.readRange_write hb 2 v
  · exact Memory.readRange_congr fun k _ => Memory.read_write_other _ v (show 6 ≠ 8 + k by omega)

end Sys2Proof.Machine
end

section
/-! SUPPORT. The Reassembler computes the abstract reassembly (R140 to R147): the abstract reassembly branch by branch,
the limits it keeps, and that RSM_PUSH of a frame takes the state from representing a reassembly to representing it with
the frame consumed. -/

namespace Sys2Proof.Machine

/-! ### The abstract reassembly (R140) -/

namespace Reassembly

/-- How a reassembly goes on once a frame's payload is appended and the frame counted (R146). -/
def settle (p : Params) (pbf : BoundaryFlag) (acc : List Byte) (count : Nat) : Reassembly :=
  if pbf = p.pbfLast ∧ (p.lastBeatsLimit = true ∨ count ≤ p.maxFrames) then .sealed acc
  else if p.maxFrames < count then .failed .limitExceeded 1
  else .collecting acc count

/-- The status code of the RSM_PUSH whose frame brings a reassembly this far (R143). -/
def code : Reassembly → Code
  | .collecting .. => .ok
  | .sealed _ => .ok
  | .failed c _ => c

/-- A reassembly that goes on is within the size limit and the frame limit (R145, R146). -/
def Bounded (p : Params) : Reassembly → Prop
  | .collecting acc count => acc.length ≤ p.maxReassembledSize ∧ count ≤ p.maxFrames
  | _ => True

section Settle
variable {p : Params} {pbf : BoundaryFlag} (acc : List Byte) {count : Nat}

theorem settle_of_last (hpbf : pbf = p.pbfLast) (h : p.lastBeatsLimit = true ∨ count ≤ p.maxFrames) :
    settle p pbf acc count = .sealed acc := if_pos ⟨hpbf, h⟩

theorem settle_of_over (h : pbf ≠ p.pbfLast ∨ p.lastBeatsLimit = false) (hover : p.maxFrames < count) :
    settle p pbf acc count = .failed .limitExceeded 1 := by
  rw [settle, if_neg, if_pos hover]
  rintro ⟨hlast, hlimit | hle⟩
  · simp [hlast, hlimit] at h
  · omega

theorem settle_of_more (hpbf : pbf ≠ p.pbfLast) (h : count ≤ p.maxFrames) :
    settle p pbf acc count = .collecting acc count := by
  rw [settle, if_neg fun hlast => hpbf hlast.1, if_neg (Nat.not_lt.2 h)]

end Settle

section Join
variable {p : Params} {cmd : CommandId} {frame : List Byte} {h : Header} {acc : List Byte} {count : Nat}

theorem join_of_mismatch (hproto : h.cmd ≠ cmd ∨ h.mt ≠ p.mtResponse) :
    join p cmd frame h acc count = .failed .protocolMismatch 0 := if_pos hproto

variable (hcmd : h.cmd = cmd) (hmt : h.mt = p.mtResponse)
include hcmd hmt

theorem join_of_malformed (hbad : p.maxChunkLimit < h.len.toNat ∨ frame.length < p.inPayOff + h.len.toNat) :
    join p cmd frame h acc count = .failed .formatError 0 := by
  rw [join, if_neg (by simp [hcmd, hmt]), if_pos hbad]

variable (hchunk : h.len.toNat ≤ p.maxChunkLimit) (hwhole : p.inPayOff + h.len.toNat ≤ frame.length)
include hchunk hwhole

theorem join_of_oversize (hover : p.maxReassembledSize < acc.length + h.len.toNat) :
    join p cmd frame h acc count = .failed .limitExceeded 2 := by
  rw [join, if_neg (by simp [hcmd, hmt]), if_neg (by omega), if_pos hover]

theorem join_of_payload (hfits : acc.length + h.len.toNat ≤ p.maxReassembledSize) :
    join p cmd frame h acc count =
      settle p h.pbf (acc ++ (frame.drop p.inPayOff).take h.len.toNat) (count + 1) := by
  rw [join, if_neg (by simp [hcmd, hmt]), if_neg (by omega), if_neg (by omega)]
  rfl

end Join

section Absorb
variable {p : Params} {cmd : CommandId} {frame acc : List Byte} {count : Nat}

theorem absorb_of_short (h : frame.length < p.minInbound) :
    (collecting acc count).absorb p cmd frame = .failed .formatError 0 := if_pos h

theorem absorb_of_header (hmin : p.minInbound ≤ frame.length) {h : Header}
    (hdec : hdrDecode (frame.drop p.inHdrOff) = some h) :
    (collecting acc count).absorb p cmd frame = join p cmd frame h acc count := by
  rw [absorb, if_neg (Nat.not_lt.2 hmin), hdec]

end Absorb

/-- A frame that joins keeps the limits. -/
theorem bounded_join {p : Params} {cmd : CommandId} {frame acc : List Byte} {h : Header} {count : Nat} :
    (join p cmd frame h acc count).Bounded p := by
  unfold join
  split_ifs with hproto hbad hsize hlast hover
  case neg =>
    refine ⟨?_, Nat.not_lt.1 hover⟩
    rw [List.length_append, List.length_take]
    omega
  all_goals trivial

/-- Consuming a frame keeps the limits. -/
theorem Bounded.absorb {p : Params} {r : Reassembly} (hr : r.Bounded p) (cmd : CommandId) (frame : List Byte) :
    (r.absorb p cmd frame).Bounded p := by
  cases r with
  | collecting acc count =>
    unfold Reassembly.absorb
    dsimp only
    split_ifs
    · trivial
    · split
      · trivial
      · exact bounded_join
  | sealed bytes => exact hr
  | failed code cause => exact hr

end Reassembly

/-! ### The state after a push (R142, R143) -/

theorem SameSegmenter.refl (s : State) : SameSegmenter s s :=
  ⟨rfl, rfl, rfl, rfl, rfl, rfl, rfl, rfl, rfl, rfl, rfl, rfl⟩

/-- A push in `s` that brings the reassembly to `r` leaves `t`: `r` represented, its status code, and the Segmenter as
it was. -/
structure PushedTo (s : State) (cmd : CommandId) (r : Reassembly) (t : State) : Prop where
  represents : t.represents cmd r
  code : t.lastCode = r.code.bits
  segmenter : SameSegmenter s t

/-- The error transition brings the reassembly to its failure (R142). -/
theorem PushedTo.rsmFail {s u : State} {cmd : CommandId} (hcmd : u.rsmCmd = cmd) (hseg : SameSegmenter s u) (c : Code)
    (cause : BitVec 2) : PushedTo s cmd (.failed c cause) (u.rsmFail c cause) where
  represents := ⟨hcmd, rfl, rfl, rfl⟩
  code := rfl
  segmenter := hseg

/-- The end of a frame brings the reassembly to where the abstract one goes on (R146). -/
theorem PushedTo.settleFrame {s u : State} {cmd : CommandId} (hseg : SameSegmenter s u) {acc : List Byte} {count : Nat}
    (hu : u.represents cmd (.collecting acc count)) (p : Params) (pbf : BoundaryFlag) :
    PushedTo s cmd (Reassembly.settle p pbf acc count) (u.settleFrame p pbf count) := by
  obtain ⟨hcmd, hstate, hacc, hcount⟩ := hu
  by_cases hlast : pbf = p.pbfLast ∧ (p.lastBeatsLimit = true ∨ count ≤ p.maxFrames)
  · rw [Reassembly.settle_of_last _ hlast.1 hlast.2, u.settleFrame_of_last hlast.1 hlast.2]
    exact ⟨⟨hcmd, (if_pos rfl).trans hacc⟩, rfl, hseg⟩
  · by_cases hover : p.maxFrames < count
    · have hfail : pbf ≠ p.pbfLast ∨ p.lastBeatsLimit = false := by
        rw [← Bool.not_eq_true, ← not_and_or]
        exact fun h => hlast (h.imp_right .inl)
      rw [Reassembly.settle_of_over _ hfail hover, u.settleFrame_of_over hfail hover]
      exact .rsmFail hcmd hseg ..
    · have hmore : pbf ≠ p.pbfLast := fun h => hlast ⟨h, .inr (Nat.not_lt.1 hover)⟩
      rw [Reassembly.settle_of_more _ hmore (Nat.not_lt.1 hover), u.settleFrame_of_more hmore (Nat.not_lt.1 hover)]
      exact ⟨⟨hcmd, hstate, hacc, hcount⟩, rfl, hseg⟩

/-- The bytes accumulated are `RSM_LEN` in number (R35). -/
theorem State.accumulated_length {s : State} {acc : List Byte} (h : s.accumulated = some acc) :
    acc.length = s.rsmLen.toNat := Memory.readRange_length h

/-- An append adds its bytes to the accumulated ones (R143). -/
theorem State.appendPayload_accumulated {s : State} {acc payload : List Byte} (h : s.accumulated = some acc)
    (hfits : s.rsmLen.toNat + payload.length < 1024) :
    (s.appendPayload payload).accumulated = some (acc ++ payload) := by
  rw [State.accumulated, State.appendPayload_rsmLen, BitVec.toNat_ofNat, Nat.mod_eq_of_lt hfits,
    State.appendPayload_rsmBuf]
  refine Memory.readRange_append ?_ ?_
  · exact (Memory.readRange_congr fun k hk => Memory.read_writeRange_out (.inl (by omega))).trans h
  · rw [Nat.zero_add, Memory.readRange_writeRange]

/-- A consumed frame adds its payload and 1 to the reassembly in progress (R143). -/
theorem State.represents.consumed {s : State} {cmd : CommandId} {acc payload : List Byte} {count : Nat}
    (hs : s.represents cmd (.collecting acc count)) (hfits : s.rsmLen.toNat + payload.length < 1024)
    (hcount : count + 1 < 16) :
    (s.countFrame.appendPayload payload).represents cmd (.collecting (acc ++ payload) (count + 1)) := by
  obtain ⟨hcmd, hstate, hacc, hframes⟩ := hs
  refine ⟨hcmd, hstate, State.appendPayload_accumulated (s := s.countFrame) hacc hfits, ?_⟩
  rw [State.appendPayload_rsmNframes, State.countFrame_rsmNframes, hframes, BitVec.toNat_ofNat]
  exact Nat.mod_eq_of_lt hcount

/-! ### RSM_PUSH consumes a frame (R140, R143) -/

section Push
variable {s₀ s : State} {cmd : CommandId} {acc : List Byte} {count : Nat} {frame : List Byte}

/-- From the decoded header on RSM_PUSH does what the abstract reassembly does with the frame. -/
theorem consumeFrame_refines (hseg : SameSegmenter s₀ s) (hs : s.represents cmd (.collecting acc count))
    (hb : (Reassembly.collecting acc count).Bounded Config.params) (h : Header)
    (hpayload : Config.params.inPayOff + h.len.toNat ≤ frame.length →
      s.inboundPayload Config.params h.len.toNat = some ((frame.drop Config.params.inPayOff).take h.len.toNat)) :
    ∃ t, consumeFrame Config.params frame.length h s = .next t ∧
      PushedTo s₀ cmd (.join Config.params cmd frame h acc count) t := by
  obtain ⟨rfl, hstate, hacc, hframes⟩ := hs
  have hlen := State.accumulated_length hacc
  by_cases hproto : h.cmd ≠ s.rsmCmd ∨ h.mt ≠ Config.params.mtResponse
  · rw [consumeFrame_of_mismatch hproto, Reassembly.join_of_mismatch hproto]
    exact ⟨_, rfl, .rsmFail rfl hseg ..⟩
  obtain ⟨hcmd, hmt⟩ := not_or.1 hproto
  rw [not_not] at hcmd hmt
  by_cases hbad : Config.params.maxChunkLimit < h.len.toNat ∨ frame.length < Config.params.inPayOff + h.len.toNat
  · rw [consumeFrame_of_malformed hcmd hmt hbad, Reassembly.join_of_malformed hcmd hmt hbad]
    exact ⟨_, rfl, .rsmFail rfl hseg ..⟩
  obtain ⟨hchunk, hwhole⟩ := not_or.1 hbad
  rw [Nat.not_lt] at hchunk hwhole
  by_cases hover : Config.params.maxReassembledSize < s.rsmLen.toNat + h.len.toNat
  · rw [consumeFrame_of_oversize hcmd hmt hchunk hwhole hover,
      Reassembly.join_of_oversize hcmd hmt hchunk hwhole (hlen ▸ hover)]
    exact ⟨_, rfl, .rsmFail (u := s.countFrame) rfl hseg ..⟩
  · have hread := hpayload hwhole
    have hfits : s.rsmLen.toNat + h.len.toNat ≤ 700 := Nat.not_lt.1 hover
    have hcount : count ≤ 10 := hb.2
    rw [consumeFrame_of_payload hcmd hmt hchunk hwhole hfits hread, hframes,
      Reassembly.join_of_payload hcmd hmt hchunk hwhole (hlen ▸ hfits)]
    have hu := State.represents.consumed ⟨rfl, hstate, hacc, hframes⟩
      (show s.rsmLen.toNat + ((frame.drop Config.params.inPayOff).take h.len.toNat).length < 1024 by
        rw [Memory.readRange_length hread]; omega) (by omega)
    exact ⟨_, rfl, .settleFrame (u := s.countFrame.appendPayload _) hseg hu ..⟩

/-- The part of a frame in `FRAME_IN` from `lo` on that a read of `len` bytes gives (R83). -/
theorem State.placeInbound_readRange (s : State) {lo len : Nat} (h : lo + len ≤ frame.length) :
    (s.placeInbound frame).frameIn.readRange lo len = some ((frame.drop lo).take len) := by
  have hread := Memory.readRange_drop_take (Memory.readRange_writeRange s.frameIn 0 frame) h
  rwa [Nat.zero_add] at hread

/-- hdrDecode reads no more than the first 4 bytes (R101). -/
theorem hdrDecode_take {bs : List Byte} (h : 4 ≤ bs.length) : hdrDecode (bs.take 4) = hdrDecode bs := by
  rw [← hdrDecode_append (bs.take 4) (bs.drop 4) (List.length_take_of_le h), List.take_append_drop]

/-- In COLLECTING a frame pushed is consumed as the abstract reassembly consumes it. -/
theorem pushFrame_collecting (hs : s.represents cmd (.collecting acc count))
    (hb : (Reassembly.collecting acc count).Bounded Config.params)
    (hlen : frame.length ≤ Config.params.frameInCapacity) :
    ∃ t, pushFrame frame s = .next t ∧
      PushedTo s cmd ((Reassembly.collecting acc count).absorb Config.params cmd frame) t := by
  have hcap : frame.length ≤ 264 := hlen
  have hn : (BitVec.ofNat 9 frame.length).toNat = frame.length := by
    rw [BitVec.toNat_ofNat, Nat.mod_eq_of_lt (by omega)]
  have hstate : (s.placeInbound frame).rsmState = .collecting := hs.2.1
  by_cases hmin : frame.length < Config.params.minInbound
  · refine ⟨_, exec_rsmPush_of_short hstate (by rwa [hn]) (by rwa [hn]), ?_⟩
    rw [Reassembly.absorb_of_short hmin]
    exact .rsmFail (u := s.placeInbound frame) hs.1 (.refl s) ..
  · have hwhole : 8 ≤ frame.length := Nat.not_lt.1 hmin
    have hdrop : 4 ≤ (frame.drop 4).length := by rw [List.length_drop]; omega
    have hbytes : (s.placeInbound frame).inboundHeader Config.params = some ((frame.drop 4).take 4) :=
      s.placeInbound_readRange hwhole
    obtain ⟨h, hdec⟩ := State.inboundHeader_decodes hbytes
    rw [pushFrame, exec_rsmPush_of_header hstate (by rwa [hn]) (by rwa [hn]) hbytes hdec, hn,
      Reassembly.absorb_of_header hwhole ((hdrDecode_take hdrop).symm.trans hdec)]
    exact consumeFrame_refines (s := s.placeInbound frame) (.refl s) hs hb h fun hin => s.placeInbound_readRange hin

/-- A result stands only while SEALED (R40). -/
theorem State.rsmState_of_result {bytes : List Byte} (h : s.result = some bytes) : s.rsmState = .sealed := by
  by_contra hne
  simp [State.result, hne] at h

/-- Pushing a frame does to the Reassembler what consuming it does to the abstract reassembly it represents. -/
theorem pushFrame_refines {r : Reassembly} (hs : s.represents cmd r) (hb : r.Bounded Config.params)
    (hlen : frame.length ≤ Config.params.frameInCapacity) :
    ∃ t, pushFrame frame s = .next t ∧ t.represents cmd (r.absorb Config.params cmd frame) := by
  cases r with
  | collecting acc count =>
    obtain ⟨t, hpush, ht⟩ := pushFrame_collecting hs hb hlen
    exact ⟨t, hpush, ht.represents⟩
  | sealed bytes =>
    have hstate : (s.placeInbound frame).rsmState = .sealed := State.rsmState_of_result hs.2
    exact ⟨_, exec_rsmPush_of_not_collecting (by rw [hstate]; decide), hs⟩
  | failed code cause =>
    have hstate : (s.placeInbound frame).rsmState = .error := hs.2.1
    exact ⟨_, exec_rsmPush_of_not_collecting (by rw [hstate]; decide), hs⟩

end Push

/-! ### A sequence of frames (R140) -/

theorem pushAll_refines {frames : List (List Byte)} {s : State} {cmd : CommandId} {r : Reassembly}
    (hs : s.represents cmd r) (hb : r.Bounded Config.params)
    (hlen : ∀ f ∈ frames, f.length ≤ Config.params.frameInCapacity) :
    ∃ u, pushAll frames s = .next u ∧ u.represents cmd (frames.foldl (Reassembly.absorb Config.params cmd) r) := by
  induction frames generalizing s r with
  | nil => exact ⟨s, rfl, hs⟩
  | cons frame rest ih =>
    rw [List.forall_mem_cons] at hlen
    obtain ⟨t, hpush, ht⟩ := pushFrame_refines hs hb hlen.1
    rw [pushAll, hpush]
    exact ih ht (hb.absorb cmd frame) hlen.2

/-- RSM_START opens the abstract reassembly of no frames (R140, R141). -/
theorem State.openReassembly_represents (cmd : CommandId) (s : State) :
    (s.openReassembly cmd).complete.represents cmd (.collecting [] 0) := ⟨rfl, rfl, rfl, rfl⟩

/-- Settles O29, by induction over the frames from the empty reassembly that RSM_START opens: its limits are kept by
the frames, so nothing of the invariant is asked of the state before. -/
theorem reassemblerComputesReassembly : Obligations.ReassemblerComputesReassembly := by
  intro s cmd frames _ hlen
  obtain ⟨u, hpush, hu⟩ := pushAll_refines (s.openReassembly_represents cmd)
    (show (Reassembly.collecting [] 0).Bounded Config.params from ⟨Nat.zero_le _, Nat.zero_le _⟩) hlen
  exact ⟨_, u, exec_rsmStart cmd s, hpush, hu⟩

end Sys2Proof.Machine
end

section
/-! SUPPORT. The round trip (R150): the frames of a payload's segmentation, each wrapped in the bytes before and after
it, reassemble to the payload, abstractly at any parameters and on the machine when the host relays each frame from the
Segmenter to the Reassembler. -/

namespace Sys2Proof

/-! ### Parameters (R7) -/

/-- The parameters place an inbound frame's payload right after its header, and a chunk's length fits its field (R7). -/
theorem Params.inbound_of_wellFormed {p : Params} (hp : p.wellFormed = true) :
    p.maxChunkLimit ≤ 251 ∧ p.minInbound = p.inPayOff ∧ p.inPayOff = p.inHdrOff + 4 := by
  simp only [Params.wellFormed, Config.hdrBytes, Bool.and_eq_true, decide_eq_true_eq] at hp
  omega

/-- The two boundary flags differ (R7, R8). -/
theorem Params.pbfNotLast_ne (p : Params) : p.pbfNotLast ≠ p.pbfLast := by
  unfold Params.pbfNotLast
  generalize p.pbfLast = b
  revert b
  decide

end Sys2Proof

namespace Sys2Proof.Machine

/-! ### A wrapped frame joins a reassembly (R83, R144 to R147) -/

/-- A frame for the expected command_id, whatever stands before and after it, adds its chunk to the reassembly within
the size limit. -/
theorem Reassembly.absorb_wrapped {p : Params} (hp : p.wellFormed = true) {before chunk acc : List Byte}
    (hbefore : before.length = p.inHdrOff) (hchunk : chunk.length ≤ p.maxChunkLimit)
    (hsize : acc.length + chunk.length ≤ p.maxReassembledSize) (cmd : CommandId) (pbf : BoundaryFlag)
    (after : List Byte) (count : Nat) :
    (collecting acc count).absorb p cmd (before ++ outboundFrame p.mtResponse cmd chunk pbf ++ after) =
      settle p pbf (acc ++ chunk) (count + 1) := by
  obtain ⟨hlimit, hmin, hpay⟩ := Params.inbound_of_wellFormed hp
  have hlen : (BitVec.ofNat 8 chunk.length).toNat = chunk.length := by
    rw [BitVec.toNat_ofNat, Nat.mod_eq_of_lt (by omega)]
  set frame := before ++ outboundFrame p.mtResponse cmd chunk pbf ++ after with hframe
  have hwhole : p.inPayOff + chunk.length ≤ frame.length := by
    simp only [hframe, outboundFrame, List.length_append, hdrEncode_length, hbefore]
    omega
  have hheader : frame.drop p.inHdrOff =
      hdrEncode p.mtResponse pbf cmd (BitVec.ofNat 8 chunk.length) ++ (chunk ++ after) := by
    rw [hframe, outboundFrame, List.append_assoc, List.append_assoc, List.drop_left' hbefore]
  have hpayload : (frame.drop p.inPayOff).take chunk.length = chunk := by
    rw [hpay, ← List.drop_drop, hheader, List.drop_left' (hdrEncode_length ..), List.take_left]
  have hdec : hdrDecode (frame.drop p.inHdrOff) =
      some ⟨p.mtResponse, pbf, cmd, BitVec.ofNat 8 chunk.length, 0⟩ := by
    rw [hheader, hdrDecode_append _ _ (hdrEncode_length ..), hdrDecode_hdrEncode]
  have hjoin := (absorb_of_header (by omega) hdec).trans
    (join_of_payload (acc := acc) (count := count) rfl rfl (by rwa [hlen]) (by rwa [hlen]) (by rwa [hlen]))
  rwa [hlen, hpayload] at hjoin

/-! ### The reassembly of a segmentation's first frames (R120, R140) -/

/-- The reassembly of the first `k` frames of a payload's segmentation at chunk size `m`. -/
def relayed (payload : List Byte) (m k : Nat) : Reassembly :=
  if k = chunkCount payload.length m then .sealed payload else .collecting (payload.take (k * m)) k

section Relayed
variable {payload : List Byte} {m k : Nat}

theorem relayed_of_lt (hk : k < chunkCount payload.length m) :
    relayed payload m k = .collecting (payload.take (k * m)) k := if_neg (Nat.ne_of_lt hk)

theorem relayed_of_eq (hk : k = chunkCount payload.length m) : relayed payload m k = .sealed payload := if_pos hk

theorem relayed_zero (hm : 1 ≤ m) : relayed payload m 0 = .collecting [] 0 := by
  rw [relayed_of_lt (chunkCount_pos hm), Nat.zero_mul, List.take_zero]

/-- Where every frame so far has been accepted, its push has ended with OK. -/
theorem relayed_code (payload : List Byte) (m k : Nat) : (relayed payload m k).code = .ok := by
  unfold relayed
  split <;> rfl

end Relayed

/-- The frames of a payload's segmentation, each wrapped in its bytes before and after (R83, R150). -/
def wrappedFrames (p : Params) (cmd : CommandId) (payload : List Byte) (m : Nat)
    (wraps : List (List Byte × List Byte)) : List (List Byte) :=
  List.zipWith (fun w c => w.1 ++ outboundFrame p.mtResponse cmd c.1 c.2 ++ w.2) wraps (segment p payload m)

theorem wrappedFrames_getElem? (p : Params) (cmd : CommandId) {payload : List Byte} {m k : Nat}
    {wraps : List (List Byte × List Byte)} {w : List Byte × List Byte} (hk : k < chunkCount payload.length m)
    (hw : wraps[k]? = some w) :
    (wrappedFrames p cmd payload m wraps)[k]? = some (w.1 ++
      outboundFrame p.mtResponse cmd (chunkAt payload m k) (flagAt p payload.length m k) ++ w.2) := by
  rw [wrappedFrames, List.getElem?_zipWith, hw, segment_getElem? _ _ _ hk]

/-- What R150 asks of the parameters, the chunk size and the payload: well-formed parameters, a legal chunk size, the
size limit, and the frame limit with one frame more where `LAST_BEATS_LIMIT` holds. -/
structure Relayable (p : Params) (payload : List Byte) (m : Nat) : Prop where
  params : p.wellFormed = true
  chunk : 1 ≤ m
  limit : m ≤ p.maxChunkLimit
  size : payload.length ≤ p.maxReassembledSize
  frames : chunkCount payload.length m ≤ if p.lastBeatsLimit then p.maxFrames + 1 else p.maxFrames

namespace Relayable
variable {p : Params} {payload : List Byte} {m k : Nat} (h : Relayable p payload m)
include h

section Next
variable (hk : k < chunkCount payload.length m)
include hk

theorem bounded : (relayed payload m k).Bounded p := by
  have hframes := h.frames
  rw [relayed_of_lt hk]
  refine ⟨(List.length_take_le' ..).trans h.size, ?_⟩
  split at hframes <;> omega

/-- The frame of chunk `k`, wrapped, takes the reassembly on by one. -/
theorem absorb_frame {before : List Byte} (hbefore : before.length = p.inHdrOff) (cmd : CommandId)
    (after : List Byte) :
    (relayed payload m k).absorb p cmd (before ++
        outboundFrame p.mtResponse cmd (chunkAt payload m k) (flagAt p payload.length m k) ++ after) =
      relayed payload m (k + 1) := by
  have hframes := h.frames
  have hstart := mul_le_of_lt_chunkCount h.chunk hk
  have hlen := chunkAt_length payload m k
  have hacc : payload.take (k * m) ++ chunkAt payload m k = payload.take ((k + 1) * m) := by
    rw [chunkAt_eq_take_drop, Nat.succ_mul, List.take_add]
  have hlimit := h.limit
  have hsize := h.size
  rw [relayed_of_lt hk, Reassembly.absorb_wrapped h.params hbefore (by omega)
    (by rw [List.length_take_of_le hstart]; omega), hacc]
  by_cases hlast : k + 1 = chunkCount payload.length m
  · have hflag : flagAt p payload.length m k = p.pbfLast := if_pos (by omega)
    have hbeats : p.lastBeatsLimit = true ∨ k + 1 ≤ p.maxFrames := by
      split at hframes
      · next hbeats => exact .inl hbeats
      · exact .inr (by omega)
    have hreach : payload.length ≤ (k + 1) * m := hlast ▸ le_chunkCount_mul h.chunk
    rw [Reassembly.settle_of_last _ hflag hbeats, List.take_of_length_le hreach, relayed_of_eq hlast]
  · have hflag : flagAt p payload.length m k = p.pbfNotLast := if_neg (by omega)
    have hmore : k + 1 ≤ p.maxFrames := by split at hframes <;> omega
    rw [Reassembly.settle_of_more _ (hflag ▸ p.pbfNotLast_ne) hmore, relayed_of_lt (by omega)]

end Next

/-- The abstract reassembly of the first wrapped frames, by induction on how many have been consumed. -/
theorem foldl_wrapped {wraps : List (List Byte × List Byte)} (hcount : wraps.length = chunkCount payload.length m)
    (hwraps : ∀ w ∈ wraps, w.1.length = p.inHdrOff) (cmd : CommandId) (hk : k ≤ chunkCount payload.length m) :
    ((wrappedFrames p cmd payload m wraps).take k).foldl (Reassembly.absorb p cmd) (.collecting [] 0) =
      relayed payload m k := by
  induction k with
  | zero => exact (relayed_zero h.chunk).symm
  | succ k ih =>
    rw [List.take_add_one, List.foldl_append, ih (Nat.le_of_lt hk),
      wrappedFrames_getElem? p cmd hk (List.getElem?_eq_getElem (by omega))]
    exact h.absorb_frame hk (hwraps _ (List.getElem_mem _)) ..

theorem reassemble_wrapped {wraps : List (List Byte × List Byte)}
    (hcount : wraps.length = chunkCount payload.length m) (hwraps : ∀ w ∈ wraps, w.1.length = p.inHdrOff)
    (cmd : CommandId) : reassemble p cmd (wrappedFrames p cmd payload m wraps) = .sealed payload := by
  have hall := h.foldl_wrapped hcount hwraps cmd (Nat.le_refl _)
  rw [List.take_of_length_le (by simp [wrappedFrames, hcount])] at hall
  exact hall.trans (relayed_of_eq rfl)

end Relayable

/-! ### The relay on the machine (R150) -/

/-- Another round after the first `k`. -/
theorem relayAll_take_succ {wraps : List (List Byte × List Byte)} {k : Nat} {w : List Byte × List Byte}
    {s t u : State} (hw : wraps[k]? = some w) (h : relayAll (wraps.take k) s = .next t)
    (hround : relayFrame w.1 w.2 t = .next u) : relayAll (wraps.take (k + 1)) s = .next u := by
  induction k generalizing wraps s with
  | zero =>
    cases wraps with
    | nil => cases hw
    | cons w' rest =>
      obtain rfl := Option.some.inj hw
      obtain rfl := Host.Outcome.next.inj h
      simp [relayAll, hround]
  | succ k ih =>
    cases wraps with
    | nil => cases hw
    | cons w' rest =>
      rw [List.take_succ_cons, relayAll] at h ⊢
      split at h
      · next v hv => exact ih hw h
      · next hno => exact absurd h (hno t)

/-- What leaves the Segmenter as it was, with OK, keeps the progress of its segmentation. -/
theorem SegProgress.of_sameSegmenter {mt : MessageType} {cmd : CommandId} {payload : List Byte} {m k : Nat}
    {s t : State} (h : SegProgress mt cmd payload m k s) (hst : SameSegmenter s t) (hcode : t.lastCode = 0) :
    SegProgress mt cmd payload m k t := by
  obtain ⟨hstate, -, -, hcmd, hmt, hlen, hoff, hframes, hchunk, houtLen, hbuf, hout⟩ := hst
  constructor
  case output => rw [State.output, hout, houtLen]; exact h.output
  case code => exact hcode
  case segMt => rw [hmt, h.segMt]
  case segCmd => rw [hcmd, h.segCmd]
  case len => rw [hlen, h.len]
  case chunk => rw [hchunk, h.chunk]
  case off => rw [hoff, h.off]
  case frames => rw [hframes, h.frames]
  case bytes => rw [hbuf, h.bytes]
  case state => rw [hstate, h.state]

/-- After `k` rounds of R150's loop: the Segmenter has emitted `k` frames and the Reassembler has consumed them. -/
structure RelayProgress (cmd : CommandId) (payload : List Byte) (m k : Nat) (s : State) : Prop where
  segmenter : SegProgress Config.params.mtResponse cmd payload m k s
  reassembler : s.represents cmd (relayed payload m k)

namespace RelayProgress
variable {cmd : CommandId} {payload : List Byte} {m k : Nat} {s : State}

/-- One round: SEG_NEXT emits the frame of chunk `k`, and the Reassembler consumes it with OK. -/
theorem relayFrame (h : RelayProgress cmd payload m k s) (hp : Relayable Config.params payload m)
    (hk : k < chunkCount payload.length m) {before after : List Byte} (hbefore : before.length = 4)
    (hafter : after.length ≤ 1) :
    ∃ t, relayFrame before after s = .next t ∧ RelayProgress cmd payload m (k + 1) t := by
  have hnext := h.segmenter.next hp.chunk hk
  have hrep : (s.emitFrame Config.params (chunkAt payload m k)).complete.represents cmd (relayed payload m k) :=
    h.reassembler
  have hlimit : m ≤ 251 := hp.limit
  have hlen := chunkAt_length payload m k
  obtain ⟨t, hpush, ht⟩ := pushFrame_collecting
    (frame := before ++ outboundFrame Config.params.mtResponse cmd (chunkAt payload m k)
      (flagAt Config.params payload.length m k) ++ after)
    (relayed_of_lt hk ▸ hrep) (relayed_of_lt hk ▸ hp.bounded hk)
    (by
      simp only [outboundFrame, List.length_append, hdrEncode_length]
      exact show _ ≤ 264 by omega)
  rw [← relayed_of_lt hk, hp.absorb_frame hk hbefore] at ht
  refine ⟨t, ?_, hnext.of_sameSegmenter ht.segmenter (ht.code.trans ?_), ht.represents⟩
  · rw [Machine.relayFrame, h.segmenter.exec_segNext hp.chunk hk]
    simp only [hnext.output (Nat.succ_pos k)]
    exact hpush
  · rw [relayed_code]
    rfl

/-- The rounds of R150's loop, one after another. -/
theorem relayAll (h : RelayProgress cmd payload m 0 s) (hp : Relayable Config.params payload m)
    {wraps : List (List Byte × List Byte)} (hcount : wraps.length = chunkCount payload.length m)
    (hwraps : ∀ w ∈ wraps, w.1.length = 4 ∧ w.2.length ≤ 1) (hk : k ≤ wraps.length) :
    ∃ t, relayAll (wraps.take k) s = .next t ∧ RelayProgress cmd payload m k t := by
  induction k with
  | zero => exact ⟨s, rfl, h⟩
  | succ k ih =>
    obtain ⟨t, hrun, ht⟩ := ih (Nat.le_of_lt hk)
    obtain ⟨hbefore, hafter⟩ := hwraps wraps[k] (List.getElem_mem _)
    obtain ⟨u, hround, hu⟩ := ht.relayFrame hp (by omega) hbefore hafter
    exact ⟨u, relayAll_take_succ (List.getElem?_eq_getElem _) hrun hround, hu⟩

end RelayProgress

/-- RSM_START touches nothing of the Segmenter (R65). -/
theorem State.openReassembly_sameSegmenter (cmd : CommandId) (s : State) :
    SameSegmenter s (s.openReassembly cmd).complete := .refl s

/-- SET_MAXCHUNK, SEG_START and RSM_START begin R150's loop. -/
theorem relay_start {s : State} {n : BitVec 9} {payload : List Byte} {len : BitVec 10} (hn : 1 ≤ n.toNat)
    (hlimit : n.toNat ≤ Config.params.maxChunkLimit) (hlen : payload.length = len.toNat)
    (hcap : len.toNat ≤ Config.params.segCapacity) (hbytes : s.segBuf.readRange 0 payload.length = some payload)
    (cmd : CommandId) :
    ∃ start, execAll [.setMaxchunk n, .segStart Config.params.mtResponse cmd len, .rsmStart cmd] s = .next start ∧
      RelayProgress cmd payload n.toNat 0 start := by
  have hwidth : (n.setWidth 8).toNat = n.toNat := by
    have hlimit : n.toNat ≤ 251 := hlimit
    rw [BitVec.toNat_setWidth, Nat.mod_eq_of_lt (by omega)]
  have hseg := SegProgress.openMessage (mt := Config.params.mtResponse) (cmd := cmd)
    (s := State.complete { s with segMaxChunk := n.setWidth 8 }) hlen (hwidth.symm ▸ hn) hbytes
  rw [State.complete_segMaxChunk, hwidth] at hseg
  simp only [execAll, exec_setMaxchunk_of_le hn hlimit, exec_segStart_of_le hcap, exec_rsmStart,
    Host.Outcome.next.injEq, exists_eq_left']
  exact ⟨hseg.of_sameSegmenter (State.openReassembly_sameSegmenter ..) rfl,
    relayed_zero hn ▸ State.openReassembly_represents ..⟩

/-- Settles O30: on the machine by the rounds of the relay, each of which takes the segmentation and its reassembly on
by one frame; abstractly by the same reassembly of the first `k` frames. -/
theorem roundTripReturnsThePayload : Obligations.RoundTripReturnsThePayload := by
  refine ⟨fun s n cmd payload len wraps hn hlimit hlen hcap hbytes hcount hframes hwraps => ?_,
    fun p m cmd payload wraps hp hm hlimit hsize hcount hframes hwraps =>
      Relayable.reassemble_wrapped ⟨hp, hm, hlimit, hsize, hcount ▸ hframes⟩ hcount hwraps cmd⟩
  have hp : Relayable Config.params payload n.toNat := ⟨by decide, hn, hlimit, hlen ▸ hcap, hcount ▸ hframes⟩
  obtain ⟨start, hstart, h0⟩ := relay_start hn hlimit hlen hcap hbytes cmd
  refine ⟨start, hstart, fun k hk => ?_⟩
  obtain ⟨t, hrun, ht⟩ := h0.relayAll hp hcount hwraps hk
  refine ⟨t, hrun, ht.segmenter.code, fun hlt => ?_, fun heq => ?_⟩
  · have hrep := ht.reassembler
    rw [relayed_of_lt (hcount ▸ hlt)] at hrep
    exact hrep.2.1
  · have hrep := ht.reassembler
    rw [relayed_of_eq (heq.trans hcount)] at hrep
    obtain ⟨-, hresult⟩ := hrep
    have hstate := State.rsmState_of_result hresult
    refine ⟨hstate, hresult, BitVec.eq_of_toNat_eq ?_⟩
    rw [State.result, if_pos hstate] at hresult
    rw [← hlen, State.accumulated_length hresult]

end Sys2Proof.Machine
end

section
/-! SUPPORT. How commands end (R160 to R169): the ends a command can have, what each writes, and the order in which
RSM_PUSH reports its errors. -/

namespace Sys2Proof.Machine

/-! ### Operands out of range (R121, R123) -/

theorem exec_setMaxchunk_out_of_range {n : BitVec 9} (h : n.toNat = 0 ∨ Config.params.maxChunkLimit < n.toNat)
    (s : State) : exec (.setMaxchunk n) s = .next (s.raise .argumentError) :=
  congrArg Host.Outcome.next (setMaxchunkWith_out_of_range h s)

theorem exec_segStart_out_of_range {len : BitVec 10} (h : Config.params.segCapacity < len.toNat) (mt : MessageType)
    (cmd : CommandId) (s : State) : exec (.segStart mt cmd len) s = .next (s.raise .argumentError) :=
  congrArg Host.Outcome.next (segStartWith_out_of_range h mt cmd s)

/-! ### The ends of a command (R160, R163, R167) -/

/-- The ends a command can have from state `s`, each with the state it leaves (R163): OK, the error codes, and the model
fault UndefinedRead. -/
inductive CommandEnd (s : State) : Instr → Host.Outcome State Fault Refusal → Prop
  /-- OK; what a command that completes writes is its own rule's. -/
  | completed (i : Instr) (t : State) : CommandEnd s i (.next t.complete)
  /-- SEQUENCE_ERROR, of any command that depends on a unit's state. -/
  | sequenceError (i : Instr) : CommandEnd s i (.next (s.raise .sequenceError))
  /-- ARGUMENT_ERROR, of any command that has an operand's range to check. -/
  | argumentError (i : Instr) : CommandEnd s i (.next (s.raise .argumentError))
  /-- FORMAT_ERROR of HDR_DEC (R105). -/
  | decodeShort (n : BitVec 9) : CommandEnd s (.hdrDec n) (.next (s.raise .formatError))
  /-- FORMAT_ERROR of RSM_PUSH (R147). -/
  | pushMalformed (n : BitVec 9) : CommandEnd s (.rsmPush n) (.next (s.rsmFail .formatError 0))
  /-- PROTOCOL_MISMATCH of RSM_PUSH (R144). -/
  | pushMismatch (n : BitVec 9) : CommandEnd s (.rsmPush n) (.next (s.rsmFail .protocolMismatch 0))
  /-- LIMIT_EXCEEDED of RSM_PUSH by the size limit (R145). -/
  | pushOversize (n : BitVec 9) {len : Byte} (hlen : s.cell .frameIn 7 = some len)
      (hover : Config.params.maxReassembledSize < s.rsmLen.toNat + len.toNat) :
      CommandEnd s (.rsmPush n) (.next (s.countFrame.rsmFail .limitExceeded 2))
  /-- LIMIT_EXCEEDED of RSM_PUSH by the frame limit (R146). -/
  | pushOvercount (n : BitVec 9) {len : Byte} (hlen : s.cell .frameIn 7 = some len) {payload : List Byte}
      (hpayload : s.inboundPayload Config.params len.toNat = some payload)
      (hover : Config.params.maxFrames < s.rsmNframes.toNat + 1) :
      CommandEnd s (.rsmPush n) (.next ((s.countFrame.appendPayload payload).rsmFail .limitExceeded 1))
  /-- UndefinedRead of SEG_NEXT (R125, R167). -/
  | segNextUndef : CommandEnd s .segNext (.fault (.undefinedRead (s.mark .undefinedRead)))
  /-- UndefinedRead of RSM_PUSH (R143, R167). -/
  | pushUndef (n : BitVec 9) : CommandEnd s (.rsmPush n) (.fault (.undefinedRead (s.mark .undefinedRead)))

/-- The ends of RSM_PUSH once the header of the inbound frame is decoded (R143 to R147). -/
theorem CommandEnd.of_consumeFrame {s : State} {h : Header} (hlen : s.cell .frameIn 7 = some h.len) (n : BitVec 9) :
    CommandEnd s (.rsmPush n) (consumeFrame Config.params n.toNat h s) := by
  obtain ⟨-, hr⟩ | ⟨-, hr⟩ | ⟨hover, hr⟩ | ⟨-, hr⟩ | ⟨payload, hpayload, -, -, hr⟩ :=
    consumeFrame_cases Config.params n.toNat h s
  all_goals rw [hr]
  · exact .pushMismatch n
  · exact .pushMalformed n
  · exact .pushOversize n hlen hover
  · exact .pushUndef n
  · obtain ⟨hover, hs⟩ | ⟨-, hs⟩ | ⟨-, -, hs⟩ :=
      (s.countFrame.appendPayload payload).settleFrame_cases Config.params h.pbf (s.rsmNframes.toNat + 1)
    all_goals rw [hs]
    · exact .pushOvercount n hlen hpayload hover
    · exact .completed ..
    · exact .completed ..

/-- The ends of RSM_PUSH (R143). -/
theorem CommandEnd.of_rsmPush (n : BitVec 9) (s : State) : CommandEnd s (.rsmPush n) (exec (.rsmPush n) s) := by
  change CommandEnd s _ (rsmPushWith Config.params n s)
  obtain ⟨-, hr⟩ | ⟨-, -, hr⟩ | ⟨-, -, hr⟩ | ⟨-, -, hr⟩ | ⟨bytes, h, -, hbytes, hdec, hr⟩ :=
    rsmPushWith_cases Config.params n s
  all_goals rw [hr]
  · exact .sequenceError _
  · exact .argumentError _
  · exact .pushMalformed n
  · exact .pushUndef n
  · exact .of_consumeFrame (State.inboundHeader_len hbytes hdec) n

/-- Every command ends in one of these ways (R160, R163, R167). -/
theorem CommandEnd.of_exec (i : Instr) (s : State) : CommandEnd s i (exec i s) := by
  cases i with
  | hdrEnc => exact .completed ..
  | rsmStart => exact .completed ..
  | hdrDec n =>
    obtain hn | hn := Nat.lt_or_ge n.toNat 4
    · rw [exec_hdrDec_of_lt hn]
      exact .decodeShort n
    · rw [exec_hdrDec_of_le hn]
      exact .completed ..
  | setMaxchunk n =>
    by_cases hn : n.toNat = 0 ∨ Config.params.maxChunkLimit < n.toNat
    · rw [exec_setMaxchunk_out_of_range hn]
      exact .argumentError _
    · rw [exec_setMaxchunk_of_le (by omega) (by omega)]
      exact .completed ..
  | segStart mt cmd len =>
    obtain hlen | hlen := Nat.lt_or_ge Config.params.segCapacity len.toNat
    · rw [exec_segStart_out_of_range hlen]
      exact .argumentError _
    · rw [exec_segStart_of_le hlen]
      exact .completed ..
  | segNext =>
    change CommandEnd s _ (segNextWith Config.params s)
    obtain ⟨-, hr⟩ | ⟨-, -, hr⟩ | ⟨chunk, -, -, hr⟩ := segNextWith_cases Config.params s
    all_goals rw [hr]
    · exact .sequenceError _
    · exact .segNextUndef
    · exact .completed ..
  | segFail =>
    by_cases hmay : s.sendMayFail = true
    · rw [exec_segFail_of_sendMayFail hmay]
      exact .completed ..
    · rw [exec_segFail_of_not_sendMayFail hmay]
      exact .sequenceError _
  | rsmPush n => exact .of_rsmPush n s

/-- An end writes one status code, never TRANSPORT_ERROR, or is the model fault UndefinedRead of SEG_NEXT or RSM_PUSH
(R160, R169). -/
theorem CommandEnd.writes_code_or_undefinedRead {s : State} {i : Instr} {o : Host.Outcome State Fault Refusal}
    (h : CommandEnd s i o) :
    (∃ t c, o = .next t ∧ c ≠ Code.transportError ∧ t.lastCode = c.bits) ∨
    ((i = .segNext ∨ ∃ n, i = .rsmPush n) ∧ o = .fault (.undefinedRead (s.mark .undefinedRead))) := by
  cases h with
  | segNextUndef => exact .inr ⟨.inl rfl, rfl⟩
  | pushUndef n => exact .inr ⟨.inr ⟨n, rfl⟩, rfl⟩
  | completed => exact .inl ⟨_, .ok, rfl, by decide, rfl⟩
  | sequenceError => exact .inl ⟨_, .sequenceError, rfl, by decide, rfl⟩
  | argumentError => exact .inl ⟨_, .argumentError, rfl, by decide, rfl⟩
  | decodeShort | pushMalformed => exact .inl ⟨_, .formatError, rfl, by decide, rfl⟩
  | pushMismatch => exact .inl ⟨_, .protocolMismatch, rfl, by decide, rfl⟩
  | pushOversize | pushOvercount => exact .inl ⟨_, .limitExceeded, rfl, by decide, rfl⟩

/-- Settles O31: an illegal word raises ILLEGAL_COMMAND, and a legal one ends as its command ends. -/
theorem everyCommandWordCompletes : Obligations.EveryCommandWordCompletes := by
  intro w s
  cases hd : decode w with
  | error e => exact .inl ⟨_, .illegalCommand, execWord_error hd s, by decide, rfl⟩
  | ok i =>
    simp only [execWord_ok hd, Except.ok.injEq]
    exact (CommandEnd.of_exec i s).writes_code_or_undefinedRead

/-! ### What an error writes (R163) -/

section Raises
variable {s t : State} {i : Instr} {n : BitVec 9}

/-- SEQUENCE_ERROR and ARGUMENT_ERROR change only `LAST_CODE`. -/
theorem CommandEnd.eq_of_sequence_or_argument_error (h : CommandEnd s i (.next t))
    (hcode : t.lastCode = 5 ∨ t.lastCode = 6) : t = { s with lastCode := t.lastCode } := by
  cases h with
  | sequenceError | argumentError => rfl
  | _ => simp [Code.bits] at hcode

/-- FORMAT_ERROR of HDR_DEC changes only `LAST_CODE`. -/
theorem CommandEnd.eq_of_hdrDec_format_error (h : CommandEnd s (.hdrDec n) (.next t)) (hcode : t.lastCode = 1) :
    t = { s with lastCode := 1 } := by
  cases h with
  | decodeShort => rfl
  | _ => simp [Code.bits] at hcode

/-- FORMAT_ERROR and PROTOCOL_MISMATCH of RSM_PUSH change what `rsmFail` writes (R142). -/
theorem CommandEnd.eq_of_rsmPush_format_or_protocol_error (h : CommandEnd s (.rsmPush n) (.next t))
    (hcode : t.lastCode = 1 ∨ t.lastCode = 2) :
    t = { s with rsmState := .error, rsmErr := t.lastCode, rsmLimitCause := 0, lastCode := t.lastCode } := by
  cases h with
  | pushMalformed | pushMismatch => rfl
  | _ => simp [Code.bits] at hcode

/-- LIMIT_EXCEEDED is RSM_PUSH's, which has counted the frame, and appended it too where the frame limit is passed. -/
theorem CommandEnd.exists_push_of_limit_exceeded (h : CommandEnd s i (.next t)) (hcode : t.lastCode = 3) :
    ∃ n len, i = .rsmPush n ∧ s.cell .frameIn 7 = some len ∧
      (Config.params.maxReassembledSize < s.rsmLen.toNat + len.toNat ∧ t = s.countFrame.rsmFail .limitExceeded 2 ∨
        Config.params.maxFrames < s.rsmNframes.toNat + 1 ∧
        ∃ payload, s.inboundPayload Config.params len.toNat = some payload ∧
          t = (s.countFrame.appendPayload payload).rsmFail .limitExceeded 1) := by
  cases h with
  | pushOversize n hlen hover => exact ⟨n, _, rfl, hlen, .inl ⟨hover, rfl⟩⟩
  | pushOvercount n hlen hpayload hover => exact ⟨n, _, rfl, hlen, .inr ⟨hover, _, hpayload, rfl⟩⟩
  | _ => simp [Code.bits] at hcode

end Raises

/-- Settles O32: the code a command ends with leaves only one kind of end for it; the length of an appended payload is
the header's. -/
theorem raisesArePrecise : Obligations.RaisesArePrecise := by
  refine ⟨fun w s e he => execWord_error he s, fun i s t h => ?_⟩
  have hend : CommandEnd s i (.next t) := h ▸ .of_exec i s
  refine ⟨hend.eq_of_sequence_or_argument_error, ?_, ?_, fun hcode => ?_⟩
  · rintro n rfl
    exact hend.eq_of_hdrDec_format_error
  · rintro n rfl
    exact hend.eq_of_rsmPush_format_or_protocol_error
  · obtain ⟨n, len, hi, hlen, ⟨hover, ht⟩ | ⟨hover, payload, hpayload, ht⟩⟩ :=
      hend.exists_push_of_limit_exceeded hcode
    · exact ⟨n, len, hi, hlen, .inl ⟨hover, ht⟩⟩
    · refine ⟨n, len, hi, hlen, .inr ⟨hover, payload, hpayload, ht.trans ?_⟩⟩
      rw [State.appendPayload, Memory.readRange_length hpayload]
      rfl

/-! ### The order of RSM_PUSH's checks (R164) -/

/-- A word with RSM_PUSH's opcode and its reserved bits zero is RSM_PUSH of its count field (R75, R77). -/
theorem decode_rsmPush {w : Word} (hop : opField w = 8) (hr : w.extractLsb' 9 19 = 0) :
    decode w = .ok (.rsmPush (countField w)) :=
  decode_eq_ok_iff.2 ⟨by simp [commandOf, hop], (and_reservedMask_eq_zero_iff w (.rsmPush _)).2 hr⟩

/-- Where LAST beats the frame limit, a frame ends with LIMIT_EXCEEDED exactly when it is NOT_LAST past the limit
(R146). -/
theorem State.settleFrame_lastCode {p : Params} (hbeats : p.lastBeatsLimit = true) (pbf : BoundaryFlag) (count : Nat)
    (s : State) :
    (s.settleFrame p pbf count).lastCode = if pbf ≠ p.pbfLast ∧ p.maxFrames < count then 3 else 0 := by
  by_cases hlast : pbf = p.pbfLast
  · rw [s.settleFrame_of_last hlast (.inl hbeats), if_neg fun h => h.1 hlast]
    rfl
  · obtain hover | hover := Nat.lt_or_ge p.maxFrames count
    · rw [s.settleFrame_of_over (.inl hlast) hover, if_pos ⟨hlast, hover⟩]
      rfl
    · rw [s.settleFrame_of_more hlast hover, if_neg fun h => Nat.not_lt.2 hover h.2]
      rfl

/-- A frame that passes its checks up to the size limit is consumed only if its payload is defined (R143, R167). -/
theorem consumeFrame_of_undef {p : Params} {n : Nat} {h : Header} {s : State} (hcmd : h.cmd = s.rsmCmd)
    (hmt : h.mt = p.mtResponse) (hchunk : h.len.toNat ≤ p.maxChunkLimit) (hwhole : p.inPayOff + h.len.toNat ≤ n)
    (hfits : s.rsmLen.toNat + h.len.toNat ≤ p.maxReassembledSize) (hpay : s.inboundPayload p h.len.toNat = none) :
    consumeFrame p n h s = s.modelFault .undefinedRead := by
  rw [consumeFrame, if_neg (by simp [hcmd, hmt]), if_neg (by omega), if_neg (by omega), hpay]

/-- The number of the first error that a frame of `n` bytes has from its decoded header on, in R164's order: the
protocol, the payload's format, the size, and the count of frames, which a LAST frame beats (R146). -/
def State.frameCode (p : Params) (n : Nat) (h : Header) (s : State) : BitVec 4 :=
  if h.cmd ≠ s.rsmCmd ∨ h.mt ≠ p.mtResponse then 2
  else if p.maxChunkLimit < h.len.toNat ∨ n < p.inPayOff + h.len.toNat then 1
  else if p.maxReassembledSize < s.rsmLen.toNat + h.len.toNat then 3
  else if h.pbf ≠ p.pbfLast ∧ p.maxFrames < s.rsmNframes.toNat + 1 then 3
  else 0

/-- From the decoded header on, RSM_PUSH reports the first error of the frame (R164). -/
theorem consumeFrame_lastCode {p : Params} (hbeats : p.lastBeatsLimit = true) {n : Nat} {h : Header} {s t : State}
    (ht : consumeFrame p n h s = .next t) : t.lastCode = s.frameCode p n h := by
  unfold State.frameCode
  by_cases hproto : h.cmd ≠ s.rsmCmd ∨ h.mt ≠ p.mtResponse
  · obtain rfl := Host.Outcome.next.inj ((consumeFrame_of_mismatch hproto).symm.trans ht)
    rw [if_pos hproto]
    rfl
  rw [if_neg hproto]
  simp only [not_or, not_not] at hproto
  obtain ⟨hcmd, hmt⟩ := hproto
  by_cases hbad : p.maxChunkLimit < h.len.toNat ∨ n < p.inPayOff + h.len.toNat
  · obtain rfl := Host.Outcome.next.inj ((consumeFrame_of_malformed hcmd hmt hbad).symm.trans ht)
    rw [if_pos hbad]
    rfl
  rw [if_neg hbad]
  simp only [not_or, Nat.not_lt] at hbad
  obtain ⟨hchunk, hwhole⟩ := hbad
  obtain hover | hfits := Nat.lt_or_ge p.maxReassembledSize (s.rsmLen.toNat + h.len.toNat)
  · obtain rfl := Host.Outcome.next.inj ((consumeFrame_of_oversize hcmd hmt hchunk hwhole hover).symm.trans ht)
    rw [if_pos hover]
    rfl
  rw [if_neg (Nat.not_lt.2 hfits)]
  cases hpay : s.inboundPayload p h.len.toNat with
  | none => exact absurd ((consumeFrame_of_undef hcmd hmt hchunk hwhole hfits hpay).symm.trans ht) (by simp)
  | some payload =>
    obtain rfl := Host.Outcome.next.inj
      ((consumeFrame_of_payload hcmd hmt hchunk hwhole hfits hpay).symm.trans ht)
    exact State.settleFrame_lastCode hbeats ..

/-- RSM_PUSH reports its first error: the Reassembler's state, the operand's range, the frame's minimum, and then those
that the header shows (R164). -/
theorem exec_rsmPush_lastCode {n : BitVec 9} {s t : State} {bytes : List Byte} {h : Header}
    (hbytes : s.inboundHeader Config.params = some bytes) (hdec : hdrDecode bytes = some h)
    (ht : exec (.rsmPush n) s = .next t) :
    t.lastCode =
      if s.rsmState ≠ .collecting then 5
      else if Config.params.frameInCapacity < n.toNat then 6
      else if n.toNat < Config.params.minInbound then 1
      else s.frameCode Config.params n.toNat h := by
  by_cases hc : s.rsmState = .collecting
  case neg =>
    obtain rfl := Host.Outcome.next.inj ((exec_rsmPush_of_not_collecting hc).symm.trans ht)
    rw [if_pos hc]
    rfl
  rw [if_neg (not_not_intro hc)]
  obtain hcap | hn := Nat.lt_or_ge Config.params.frameInCapacity n.toNat
  · obtain rfl := Host.Outcome.next.inj ((rsmPushWith_out_of_range hc hcap).symm.trans ht)
    rw [if_pos hcap]
    rfl
  rw [if_neg (Nat.not_lt.2 hn)]
  obtain hshort | hmin := Nat.lt_or_ge n.toNat Config.params.minInbound
  · obtain rfl := Host.Outcome.next.inj ((exec_rsmPush_of_short hc hn hshort).symm.trans ht)
    rw [if_pos hshort]
    rfl
  rw [if_neg (Nat.not_lt.2 hmin)]
  rw [exec_rsmPush_of_header hc hn hmin hbytes hdec] at ht
  exact consumeFrame_lastCode rfl ht

/-- Settles O33: a word with a reserved bit set is illegal and runs no command, and any other of this opcode is RSM_PUSH
of its count field. -/
theorem firstErrorIsReported : Obligations.FirstErrorIsReported := by
  refine ⟨fun w s e he => ⟨_, execWord_error he s, rfl⟩, fun s t w b0 b1 b2 b3 hop hheader ht => ?_⟩
  by_cases hr : w.extractLsb' 9 19 = 0
  · rw [execWord_ok (decode_rsmPush hop hr)] at ht
    exact (exec_rsmPush_lastCode hheader.inboundHeader rfl ht).trans (if_neg (not_not_intro hr)).symm
  · have hillegal := illegalWordsAndOutOfRangeOperands.1 w s
      (.inr (.inr (.inr (.inl ⟨.inr (.inr hop), hr⟩))))
    obtain rfl := Host.Outcome.next.inj (hillegal.symm.trans ht)
    exact (if_pos hr).symm

end Sys2Proof.Machine
end

section
/-! SUPPORT. The encoder and the decoder are inverse (R71 to R78), and so are the assembler and the reading of a command
back as source (R86). -/

namespace Sys2Proof

/-- Settles O1: the decoder's two conditions hold of an encoded command. -/
theorem decodeEncodeAgree : Obligations.DecodeEncodeAgree := decode_encode

/-! ### A word is the encoding of what it decodes to (R76, R78) -/

section Formats
variable {w : Word} {op : BitVec 4} (hop : opField w = op)
include hop

/-- A word whose reserved field is zero is its fields in format H (R72). -/
theorem formatH_fields (hr : w.extractLsb' 0 4 = 0) :
    formatH op (mtField w) (pbfField w) (cmdField w) (lenField w) = w := by
  have hr : w.toNat / 2 ^ 0 % 2 ^ 4 = 0 := by rw [← toNat_field, hr]; rfl
  apply BitVec.eq_of_toNat_eq
  simp only [← hop, toNat_formatH, opField, mtField, pbfField, cmdField, lenField, toNat_field]
  omega

/-- A word whose reserved fields are zero is its fields in format S (R73). -/
theorem formatS_fields (hr : w.extractLsb' 24 1 = 0 ∧ w.extractLsb' 10 2 = 0) :
    formatS op (mtField w) (cmdField w) (segLenField w) = w := by
  have hbit : w.toNat / 2 ^ 24 % 2 ^ 1 = 0 := by rw [← toNat_field, hr.1]; rfl
  have hbits : w.toNat / 2 ^ 10 % 2 ^ 2 = 0 := by rw [← toNat_field, hr.2]; rfl
  apply BitVec.eq_of_toNat_eq
  simp only [← hop, toNat_formatS, opField, mtField, cmdField, segLenField, toNat_field]
  omega

/-- A word whose reserved fields are zero is its fields in format C (R74). -/
theorem formatC_fields (hr : w.extractLsb' 24 4 = 0 ∧ w.extractLsb' 0 12 = 0) : formatC op (cmdField w) = w := by
  have hhigh : w.toNat / 2 ^ 24 % 2 ^ 4 = 0 := by rw [← toNat_field, hr.1]; rfl
  have hlow : w.toNat / 2 ^ 0 % 2 ^ 12 = 0 := by rw [← toNat_field, hr.2]; rfl
  apply BitVec.eq_of_toNat_eq
  simp only [← hop, toNat_formatC, opField, cmdField, toNat_field]
  omega

/-- A word whose reserved field is zero is its fields in format K (R75). -/
theorem formatK_fields (hr : w.extractLsb' 9 19 = 0) : formatK op (countField w) = w := by
  have hr : w.toNat / 2 ^ 9 % 2 ^ 19 = 0 := by rw [← toNat_field, hr]; rfl
  apply BitVec.eq_of_toNat_eq
  simp only [← hop, toNat_formatK, opField, countField, toNat_field]
  omega

/-- A word whose reserved field is zero is its opcode in format N (R71). -/
theorem formatN_fields (hr : w.extractLsb' 0 28 = 0) : formatN op = w := by
  have hw : opField w ++ w.extractLsb' 0 28 = w := BitVec.extractLsb'_append_extractLsb' (w := 4)
  rwa [hop, hr] at hw

end Formats

/-- A word is the word of the command it names, where that command's reserved fields are zero: its other fields are the
opcode and the operands. -/
theorem encode_of_commandOf {w : Word} {i : Instr} (h : commandOf w = some i) (hr : i.ReservedZero w) :
    encode i = w := by
  unfold commandOf at h
  split at h <;> cases h
  case h_1 hop => exact formatH_fields hop hr
  case h_4 hop => exact formatS_fields hop hr
  case h_5 hop | h_6 hop => exact formatN_fields hop hr
  case h_7 hop => exact formatC_fields hop hr
  case h_2 hop | h_3 hop | h_8 hop => exact formatK_fields hop hr

/-- An accepted word is the word of the command it names. -/
theorem encode_of_decode {w : Word} {i : Instr} (h : decode w = .ok i) : encode i = w :=
  encode_of_commandOf (decode_eq_ok_iff.1 h).1 (reservedZero_of_decode h)

/-- Settles O2: each field of the word is the opcode, an operand or zero. -/
theorem encodeDecodeAgree : Obligations.EncodeDecodeAgree := fun _ _ => encode_of_decode

/-- Settles O6: each word is its command's encoding. -/
theorem sampleWordsDecode : Obligations.SampleWordsDecode :=
  ⟨decode_encode (.hdrEnc 2 0 0x123 5), decode_encode (.hdrEnc 7 1 0xFFF 255), decode_encode (.hdrDec 511),
    decode_encode (.setMaxchunk 200), decode_encode (.segStart 2 0x0A5 300), decode_encode .segNext,
    decode_encode .segFail, decode_encode (.rsmStart 0x123), decode_encode (.rsmPush 260)⟩

/-! ### The assembler (R86) -/

/-- An operand that fits its field is not cut by it. -/
theorem toNat_ofNat_of_fitsField {bits v : Nat} (h : fitsField bits v = true) : (BitVec.ofNat bits v).toNat = v := by
  rw [BitVec.toNat_ofNat]
  exact Nat.mod_eq_of_lt (of_decide_eq_true h)

/-- The command of a source line whose operands fit reads back as that line, operand for operand. -/
theorem Source.toSource_instr {c : Source} (h : c.wellFormed = true) : c.instr.toSource = c := by
  cases c with
  | hdrEnc | segStart =>
    simp only [Source.wellFormed, Bool.and_eq_true] at h
    simp [Source.instr, Instr.toSource, toNat_ofNat_of_fitsField, -BitVec.toNat_ofNat, h]
  | hdrDec | setMaxchunk | rsmStart | rsmPush =>
    simp [Source.instr, Instr.toSource, toNat_ofNat_of_fitsField h, -BitVec.toNat_ofNat]
  | segNext | segFail => rfl

/-- Settles O7: the word is the encoding of the line's command. -/
theorem assemblerKeepsOperands : Obligations.AssemblerKeepsOperands := by
  refine ⟨fun c h => ⟨encode c.instr, c.instr, if_pos h, decode_encode _, Source.toSource_instr h⟩, fun c h => ?_⟩
  exact if_neg (by simp [h])

end Sys2Proof
end

section
/-! SUPPORT. The commands as a relation: how a command completes, each way with the conditions under which it does and
the state it leaves, exactly as `exec` (R103 to R147, R163). What a command writes and what it reads follow from it. -/

namespace Sys2Proof.Machine

/-! ### The frame that RSM_PUSH finds (R143) -/

/-- RSM_PUSH of `n` bytes passes the checks before its header, which is `h` (R143, R164). -/
structure State.Finds (s : State) (n : BitVec 9) (h : Header) : Prop where
  state : s.rsmState = .collecting
  count : n.toNat ≤ Config.params.frameInCapacity
  min : Config.params.minInbound ≤ n.toNat
  header : ∃ bytes, s.inboundHeader Config.params = some bytes ∧ hdrDecode bytes = some h

/-- A frame that RSM_PUSH finds passes the checks of its header (R144, R147). -/
structure State.Passes (s : State) (n : BitVec 9) (h : Header) : Prop extends s.Finds n h where
  cmd : h.cmd = s.rsmCmd
  mt : h.mt = Config.params.mtResponse
  chunk : h.len.toNat ≤ Config.params.maxChunkLimit
  whole : Config.params.inPayOff + h.len.toNat ≤ n.toNat

/-- A frame that passes its checks also keeps the size limit, and its payload is defined (R145). -/
structure State.Takes (s : State) (n : BitVec 9) (h : Header) (payload : List Byte) : Prop extends s.Passes n h where
  size : s.rsmLen.toNat + h.len.toNat ≤ Config.params.maxReassembledSize
  payload : s.inboundPayload Config.params h.len.toNat = some payload

section Push
variable {s : State} {n : BitVec 9} {h : Header} {payload : List Byte}

theorem State.Finds.exec_rsmPush (hf : s.Finds n h) :
    exec (.rsmPush n) s = consumeFrame Config.params n.toNat h s := by
  obtain ⟨bytes, hbytes, hdec⟩ := hf.header
  exact exec_rsmPush_of_header hf.state hf.count hf.min hbytes hdec

theorem State.Passes.exec_rsmPush_of_oversize (hp : s.Passes n h)
    (hover : Config.params.maxReassembledSize < s.rsmLen.toNat + h.len.toNat) :
    exec (.rsmPush n) s = .next (s.countFrame.rsmFail .limitExceeded 2) :=
  hp.exec_rsmPush.trans (consumeFrame_of_oversize hp.cmd hp.mt hp.chunk hp.whole hover)

theorem State.Passes.exec_rsmPush_of_undef (hp : s.Passes n h)
    (hsize : s.rsmLen.toNat + h.len.toNat ≤ Config.params.maxReassembledSize)
    (hpay : s.inboundPayload Config.params h.len.toNat = none) :
    exec (.rsmPush n) s = s.modelFault .undefinedRead :=
  hp.exec_rsmPush.trans (consumeFrame_of_undef hp.cmd hp.mt hp.chunk hp.whole hsize hpay)

theorem State.Takes.exec_rsmPush (ht : s.Takes n h payload) :
    exec (.rsmPush n) s = .next ((s.countFrame.appendPayload payload).settleFrame Config.params h.pbf
      (s.rsmNframes.toNat + 1)) :=
  ht.toFinds.exec_rsmPush.trans
    (consumeFrame_of_payload ht.cmd ht.mt ht.chunk ht.whole ht.size ht.payload)

/-- RSM_PUSH that finds its header undefined stops (R143, R167). -/
theorem exec_rsmPush_of_undef (hc : s.rsmState = .collecting) (hn : n.toNat ≤ Config.params.frameInCapacity)
    (hmin : Config.params.minInbound ≤ n.toNat) (hbytes : s.inboundHeader Config.params = none) :
    exec (.rsmPush n) s = s.modelFault .undefinedRead := by
  change rsmPushWith Config.params n s = _
  rw [rsmPushWith, if_neg (not_not_intro hc), if_neg (Nat.not_lt.2 hn), if_neg (Nat.not_lt.2 hmin), hbytes]

end Push

/-! ### How a command completes -/

/-- The command raises an error code that changes only `LAST_CODE` (R163). -/
inductive Raises (s : State) : Instr → Code → Prop
  | decodeShort {n : BitVec 9} (h : n.toNat < 4) : Raises s (.hdrDec n) .formatError
  | maxchunkRange {n : BitVec 9} (h : n.toNat = 0 ∨ Config.params.maxChunkLimit < n.toNat) :
      Raises s (.setMaxchunk n) .argumentError
  | startRange {mt : MessageType} {cmd : CommandId} {len : BitVec 10} (h : Config.params.segCapacity < len.toNat) :
      Raises s (.segStart mt cmd len) .argumentError
  | nextSequence (h : s.segState ≠ .active) : Raises s .segNext .sequenceError
  | failSequence (h : ¬s.sendMayFail = true) : Raises s .segFail .sequenceError
  | pushSequence {n : BitVec 9} (h : s.rsmState ≠ .collecting) : Raises s (.rsmPush n) .sequenceError
  | pushRange {n : BitVec 9} (hc : s.rsmState = .collecting) (h : Config.params.frameInCapacity < n.toNat) :
      Raises s (.rsmPush n) .argumentError

/-- RSM_PUSH rejects the frame before counting it: `rsmFail` with cause 0 (R142, R144, R147). -/
inductive Rejects (s : State) (n : BitVec 9) : Code → Prop
  | short (hc : s.rsmState = .collecting) (hn : n.toNat ≤ Config.params.frameInCapacity)
      (h : n.toNat < Config.params.minInbound) : Rejects s n .formatError
  | mismatch {h : Header} (hf : s.Finds n h) (hproto : h.cmd ≠ s.rsmCmd ∨ h.mt ≠ Config.params.mtResponse) :
      Rejects s n .protocolMismatch
  | malformed {h : Header} (hf : s.Finds n h) (hcmd : h.cmd = s.rsmCmd) (hmt : h.mt = Config.params.mtResponse)
      (hbad : Config.params.maxChunkLimit < h.len.toNat ∨ n.toNat < Config.params.inPayOff + h.len.toNat) :
      Rejects s n .formatError

/-- `Completes s i t`: command `i` in state `s` ends with a status code, in state `t`. -/
inductive Completes (s : State) : Instr → State → Prop
  | raised {i : Instr} {c : Code} (h : Raises s i c) : Completes s i (s.raise c)
  | hdrEnc (mt : MessageType) (pbf : BoundaryFlag) (cmd : CommandId) (len : Byte) :
      Completes s (.hdrEnc mt pbf cmd len)
        (State.complete { s with hdrOut := bytesRegister (hdrEncode mt pbf cmd len) })
  | hdrDec {n : BitVec 9} (h : 4 ≤ n.toNat) : Completes s (.hdrDec n) (s.latchHeader (wordHeader s.din)).complete
  | setMaxchunk {n : BitVec 9} (h : 1 ≤ n.toNat) (hmax : n.toNat ≤ Config.params.maxChunkLimit) :
      Completes s (.setMaxchunk n) (State.complete { s with segMaxChunk := n.setWidth 8 })
  | segStart (mt : MessageType) (cmd : CommandId) {len : BitVec 10} (h : len.toNat ≤ Config.params.segCapacity) :
      Completes s (.segStart mt cmd len) (s.openMessage mt cmd len).complete
  | segNext {chunk : List Byte} (h : s.segState = .active) (hc : s.chunkBytes = some chunk) :
      Completes s .segNext (s.emitFrame Config.params chunk).complete
  | segFail (h : s.sendMayFail = true) :
      Completes s .segFail (State.complete { s with segState := .error, segErr := Code.transportError.bits })
  | rsmStart (cmd : CommandId) : Completes s (.rsmStart cmd) (s.openReassembly cmd).complete
  | pushRejected {n : BitVec 9} {c : Code} (h : Rejects s n c) : Completes s (.rsmPush n) (s.rsmFail c 0)
  | pushOversize {n : BitVec 9} {h : Header} (hp : s.Passes n h)
      (hover : Config.params.maxReassembledSize < s.rsmLen.toNat + h.len.toNat) :
      Completes s (.rsmPush n) (s.countFrame.rsmFail .limitExceeded 2)
  | pushOvercount {n : BitVec 9} {h : Header} {payload : List Byte} (ht : s.Takes n h payload)
      (hmore : h.pbf ≠ Config.params.pbfLast) (hover : Config.params.maxFrames < s.rsmNframes.toNat + 1) :
      Completes s (.rsmPush n) ((s.countFrame.appendPayload payload).rsmFail .limitExceeded 1)
  | pushLast {n : BitVec 9} {h : Header} {payload : List Byte} (ht : s.Takes n h payload)
      (hlast : h.pbf = Config.params.pbfLast) :
      Completes s (.rsmPush n) (State.complete { s.countFrame.appendPayload payload with rsmState := .sealed })
  | pushMore {n : BitVec 9} {h : Header} {payload : List Byte} (ht : s.Takes n h payload)
      (hmore : h.pbf ≠ Config.params.pbfLast) (hfits : s.rsmNframes.toNat + 1 ≤ Config.params.maxFrames) :
      Completes s (.rsmPush n) (s.countFrame.appendPayload payload).complete

section Completes
variable {s t : State} {i : Instr} {n : BitVec 9}

theorem Raises.exec_eq {c : Code} (h : Raises s i c) : exec i s = .next (s.raise c) := by
  cases h with
  | decodeShort h => exact exec_hdrDec_of_lt h s
  | maxchunkRange h => exact exec_setMaxchunk_out_of_range h s
  | startRange h => exact exec_segStart_out_of_range h ..
  | nextSequence h => exact exec_segNext_of_not_active h
  | failSequence h => exact exec_segFail_of_not_sendMayFail h
  | pushSequence h => exact exec_rsmPush_of_not_collecting h
  | pushRange hc h => exact rsmPushWith_out_of_range hc h

theorem Rejects.exec_eq {c : Code} (h : Rejects s n c) : exec (.rsmPush n) s = .next (s.rsmFail c 0) := by
  cases h with
  | short hc hn h => exact exec_rsmPush_of_short hc hn h
  | mismatch hf hproto => exact hf.exec_rsmPush.trans (consumeFrame_of_mismatch hproto)
  | malformed hf hcmd hmt hbad => exact hf.exec_rsmPush.trans (consumeFrame_of_malformed hcmd hmt hbad)

/-- Each way to complete is what `exec` does. -/
theorem Completes.exec_eq (h : Completes s i t) : exec i s = .next t := by
  cases h with
  | raised h => exact h.exec_eq
  | hdrEnc mt pbf cmd len => exact exec_hdrEnc ..
  | hdrDec h => exact exec_hdrDec_of_le h s
  | setMaxchunk h hmax => exact exec_setMaxchunk_of_le h hmax s
  | segStart mt cmd h => exact exec_segStart_of_le h mt cmd s
  | segNext h hc => exact exec_segNext_of_chunk h hc
  | segFail h => exact exec_segFail_of_sendMayFail h
  | rsmStart cmd => exact exec_rsmStart cmd s
  | pushRejected h => exact h.exec_eq
  | pushOversize hp hover => exact hp.exec_rsmPush_of_oversize hover
  | pushOvercount ht hmore hover => rw [ht.exec_rsmPush, State.settleFrame_of_over _ (.inl hmore) hover]
  | pushLast ht hlast => rw [ht.exec_rsmPush, State.settleFrame_of_last _ hlast (.inl rfl)]
  | pushMore ht hmore hfits => rw [ht.exec_rsmPush, State.settleFrame_of_more _ hmore hfits]

/-- RSM_PUSH of a frame that passes its checks completes, or finds an undefined payload byte. -/
theorem State.Passes.completes_or_undef {h : Header} (hp : s.Passes n h) :
    (∃ t, Completes s (.rsmPush n) t) ∨ exec (.rsmPush n) s = s.modelFault .undefinedRead := by
  obtain hover | hsize := Nat.lt_or_ge Config.params.maxReassembledSize (s.rsmLen.toNat + h.len.toNat)
  · exact .inl ⟨_, .pushOversize hp hover⟩
  cases hpay : s.inboundPayload Config.params h.len.toNat with
  | none => exact .inr (hp.exec_rsmPush_of_undef hsize hpay)
  | some payload =>
    have ht : s.Takes n h payload := ⟨hp, hsize, hpay⟩
    by_cases hlast : h.pbf = Config.params.pbfLast
    · exact .inl ⟨_, .pushLast ht hlast⟩
    · obtain hover | hfits := Nat.lt_or_ge Config.params.maxFrames (s.rsmNframes.toNat + 1)
      · exact .inl ⟨_, .pushOvercount ht hlast hover⟩
      · exact .inl ⟨_, .pushMore ht hlast hfits⟩

/-- RSM_PUSH completes, or reads an undefined byte (R143, R167). -/
theorem rsmPush_completes_or_undef (n : BitVec 9) (s : State) :
    (∃ t, Completes s (.rsmPush n) t) ∨ exec (.rsmPush n) s = s.modelFault .undefinedRead := by
  by_cases hc : s.rsmState = .collecting
  case neg => exact .inl ⟨_, .raised (.pushSequence hc)⟩
  obtain hover | hn := Nat.lt_or_ge Config.params.frameInCapacity n.toNat
  · exact .inl ⟨_, .raised (.pushRange hc hover)⟩
  obtain hshort | hmin := Nat.lt_or_ge n.toNat Config.params.minInbound
  · exact .inl ⟨_, .pushRejected (.short hc hn hshort)⟩
  cases hbytes : s.inboundHeader Config.params with
  | none => exact .inr (exec_rsmPush_of_undef hc hn hmin hbytes)
  | some bytes =>
    obtain ⟨h, hdec⟩ := State.inboundHeader_decodes hbytes
    have hf : s.Finds n h := ⟨hc, hn, hmin, bytes, hbytes, hdec⟩
    by_cases hproto : h.cmd ≠ s.rsmCmd ∨ h.mt ≠ Config.params.mtResponse
    · exact .inl ⟨_, .pushRejected (.mismatch hf hproto)⟩
    rw [not_or, not_not, not_not] at hproto
    obtain ⟨hcmd, hmt⟩ := hproto
    by_cases hbad : Config.params.maxChunkLimit < h.len.toNat ∨ n.toNat < Config.params.inPayOff + h.len.toNat
    · exact .inl ⟨_, .pushRejected (.malformed hf hcmd hmt hbad)⟩
    rw [not_or, Nat.not_lt, Nat.not_lt] at hbad
    exact State.Passes.completes_or_undef ⟨hf, hcmd, hmt, hbad.1, hbad.2⟩

/-- Every command completes or reads an undefined byte (R169). -/
theorem completes_or_undef (i : Instr) (s : State) :
    (∃ t, Completes s i t) ∨ exec i s = s.modelFault .undefinedRead := by
  cases i with
  | hdrEnc mt pbf cmd len => exact .inl ⟨_, .hdrEnc ..⟩
  | hdrDec n =>
    obtain hn | hn := Nat.lt_or_ge n.toNat 4
    · exact .inl ⟨_, .raised (.decodeShort hn)⟩
    · exact .inl ⟨_, .hdrDec hn⟩
  | setMaxchunk n =>
    by_cases hn : n.toNat = 0 ∨ Config.params.maxChunkLimit < n.toNat
    · exact .inl ⟨_, .raised (.maxchunkRange hn)⟩
    · exact .inl ⟨_, .setMaxchunk (by omega) (by omega)⟩
  | segStart mt cmd len =>
    obtain hlen | hlen := Nat.lt_or_ge Config.params.segCapacity len.toNat
    · exact .inl ⟨_, .raised (.startRange hlen)⟩
    · exact .inl ⟨_, .segStart mt cmd hlen⟩
  | segNext =>
    by_cases hactive : s.segState = .active
    case neg => exact .inl ⟨_, .raised (.nextSequence hactive)⟩
    cases hc : s.chunkBytes with
    | none => exact .inr (exec_segNext_of_undef hactive hc)
    | some chunk => exact .inl ⟨_, .segNext hactive hc⟩
  | segFail =>
    by_cases hmay : s.sendMayFail = true
    · exact .inl ⟨_, .segFail hmay⟩
    · exact .inl ⟨_, .raised (.failSequence hmay)⟩
  | rsmStart cmd => exact .inl ⟨_, .rsmStart cmd⟩
  | rsmPush n => exact rsmPush_completes_or_undef n s

/-- The relation is exactly `exec`. -/
theorem exec_eq_next_iff : exec i s = .next t ↔ Completes s i t := by
  refine ⟨fun h => ?_, Completes.exec_eq⟩
  obtain ⟨u, hu⟩ | hundef := completes_or_undef i s
  · obtain rfl := Host.Outcome.next.inj (hu.exec_eq.symm.trans h)
    exact hu
  · exact absurd (hundef.symm.trans h) (by simp)

end Completes

end Sys2Proof.Machine
end

section
/-! SUPPORT. The invariant (R12, R26, R27, R31 to R36): each command keeps each of its parts, and so does every step. -/

namespace Sys2Proof.Machine

/-! ### The parts of the state (R65) -/

/-- `r` with the Segmenter's registers and buffers of `u`. -/
def State.withSegmenter (r u : State) : State :=
  { r with
    segState := u.segState, segErr := u.segErr, segMaxChunk := u.segMaxChunk, segCmd := u.segCmd, segMt := u.segMt,
    segLen := u.segLen, segOff := u.segOff, segNframes := u.segNframes, segChunk := u.segChunk,
    frameOutLen := u.frameOutLen, segBuf := u.segBuf, frameOut := u.frameOut }

/-- `r` with the Reassembler's registers and buffers of `u`. -/
def State.withReassembler (r u : State) : State :=
  { r with
    rsmState := u.rsmState, rsmErr := u.rsmErr, rsmLimitCause := u.rsmLimitCause, rsmCmd := u.rsmCmd,
    rsmLen := u.rsmLen, rsmNframes := u.rsmNframes, frameIn := u.frameIn, rsmBuf := u.rsmBuf }

theorem SameReassembler.refl (s : State) : SameReassembler s s := ⟨rfl, rfl, rfl, rfl, rfl, rfl, rfl, rfl⟩

theorem SameSegmenter.eq_withSegmenter {s t : State} (h : SameSegmenter s t) : t = t.withSegmenter s := by
  obtain ⟨h1, h2, h3, h4, h5, h6, h7, h8, h9, h10, h11, h12⟩ := h
  rw [State.withSegmenter, ← h1, ← h2, ← h3, ← h4, ← h5, ← h6, ← h7, ← h8, ← h9, ← h10, ← h11, ← h12]

theorem SameReassembler.eq_withReassembler {s t : State} (h : SameReassembler s t) : t = t.withReassembler s := by
  obtain ⟨h1, h2, h3, h4, h5, h6, h7, h8⟩ := h
  rw [State.withReassembler, ← h1, ← h2, ← h3, ← h4, ← h5, ← h6, ← h7, ← h8]

/-! ### Buffers (R37, R51) -/

/-- A buffer in canonical form with no cell at or past `cap`. -/
structure Memory.Within (cap : Nat) (m : Memory) : Prop where
  wf : m.wf
  inside : ∀ i, cap ≤ i → m.read i = none

theorem Memory.Within.writeRange {cap : Nat} {m : Memory} (h : m.Within cap) {i : Nat} {bs : List Byte}
    (hi : i + bs.length ≤ cap) : (m.writeRange i bs).Within cap where
  wf := Memory.wf_writeRange h.wf i bs
  inside j hj := (Memory.read_writeRange_out (.inr (hi.trans hj))).trans (h.inside j hj)

theorem Memory.Within.write {cap : Nat} {m : Memory} (h : m.Within cap) {i : Nat} (hi : i < cap) (v : Byte) :
    (m.write i v).Within cap := h.writeRange (bs := [v]) hi

/-- The buffers are well formed when each of the four is. -/
theorem buffersOk_iff {s : State} : BuffersOk s ↔
    s.segBuf.Within Config.params.segCapacity ∧ s.frameOut.Within Config.params.frameOutCapacity ∧
    s.frameIn.Within Config.params.frameInCapacity ∧ s.rsmBuf.Within Config.params.rsmCapacity := by
  constructor
  · intro h
    have hbuf (b : Buf) : (s.buffer b).Within (b.capacity Config.params) := ⟨h.wf b, h.inside b⟩
    exact ⟨hbuf .segBuf, hbuf .frameOut, hbuf .frameIn, hbuf .rsmBuf⟩
  · rintro ⟨hseg, hout, hin, hrsm⟩
    have hbuf (b : Buf) : (s.buffer b).Within (b.capacity Config.params) := by
      cases b
      exacts [hseg, hout, hin, hrsm]
    exact ⟨fun b => (hbuf b).wf, fun b => (hbuf b).inside⟩

/-- A range that can be read is defined. -/
theorem Memory.isSome_of_readRange {m : Memory} {n : Nat} {bs : List Byte} (h : m.readRange 0 n = some bs) {i : Nat}
    (hi : i < n) : (m.read i).isSome := by
  obtain ⟨hlen, hcells⟩ := (m.readRange_eq_some 0 n bs).1 h
  have hcell := hcells i hi
  rw [Nat.zero_add] at hcell
  rw [hcell, List.getElem?_eq_getElem (by omega)]
  rfl

/-! ### The Segmenter (R33) -/

section Segmenter
variable {s : State}

/-- In ACTIVE the next chunk is empty only where the payload is (R33). -/
theorem SegmenterOk.chunkLen_pos_or (hs : SegmenterOk s) (h : s.segState = .active) :
    1 ≤ s.chunkLen ∨ s.segOff = 0 ∧ s.segLen = 0 ∧ s.segNframes = 0 := by
  have hchunk := hs.chunk (by simp [h])
  refine (hs.active h).imp_left fun hlt => ?_
  unfold State.chunkLen
  omega

/-- The chunk and its header fit `FRAME_OUT` (R34). -/
theorem SegmenterOk.chunkLen_le (hs : SegmenterOk s) (h : s.segState = .active) :
    Config.hdrBytes + s.chunkLen ≤ Config.params.frameOutCapacity := by
  have hchunk : s.segChunk.toNat ≤ 251 := (hs.chunk (by simp [h])).2
  exact Nat.add_le_add_left (s.chunkLen_le_chunk.trans hchunk) 4

theorem SegmenterOk.openMessage (hs : SegmenterOk s) (mt : MessageType) (cmd : CommandId) {len : BitVec 10}
    (h : len.toNat ≤ Config.params.segCapacity) : SegmenterOk (s.openMessage mt cmd len).complete where
  maxChunk := hs.maxChunk
  len := h
  off := Nat.zero_le _
  frames := .inl (Nat.le_refl 0)
  chunk _ := hs.maxChunk
  idle h := by cases h
  active _ := (Nat.eq_zero_or_pos len.toNat).symm.imp id fun h => ⟨rfl, BitVec.eq_of_toNat_eq h, rfl⟩
  done h := by cases h
  err := rfl
  outLen := hs.outLen
  outDefined := hs.outDefined

theorem SegmenterOk.setMaxchunk (hs : SegmenterOk s) {n : BitVec 9} (h : 1 ≤ n.toNat)
    (hmax : n.toNat ≤ Config.params.maxChunkLimit) :
    SegmenterOk (State.complete { s with segMaxChunk := n.setWidth 8 }) where
  maxChunk := by
    have hn : (n.setWidth 8).toNat = n.toNat := by
      have hmax : n.toNat ≤ 251 := hmax
      rw [BitVec.toNat_setWidth, Nat.mod_eq_of_lt (by omega)]
    exact hn.symm ▸ ⟨h, hmax⟩
  len := hs.len
  off := hs.off
  frames := hs.frames
  chunk := hs.chunk
  idle := hs.idle
  active := hs.active
  done := hs.done
  err := hs.err
  outLen := hs.outLen
  outDefined := hs.outDefined

/-- A send fails only after SEG_START, which has set the chunk size (R127). -/
theorem SegmenterOk.segFail (hs : SegmenterOk s) (h : s.sendMayFail = true) :
    SegmenterOk (State.complete { s with segState := .error, segErr := Code.transportError.bits }) where
  maxChunk := hs.maxChunk
  len := hs.len
  off := hs.off
  frames := hs.frames
  chunk _ := by
    obtain ⟨hstate, -⟩ := State.sendMayFail_iff.1 h
    exact hs.chunk fun hidle => by simp [hidle] at hstate
  idle h := by cases h
  active h := by cases h
  done h := by cases h
  err := rfl
  outLen := hs.outLen
  outDefined := hs.outDefined

/-- SEG_NEXT keeps the Segmenter's invariant: its counters advance by exact sums, and the frame it leaves is defined. -/
theorem SegmenterOk.emitFrame (hs : SegmenterOk s) (h : s.segState = .active) {chunk : List Byte}
    (hc : s.chunkBytes = some chunk) : SegmenterOk (s.emitFrame Config.params chunk).complete := by
  obtain ⟨hoff, hframes, houtLen⟩ := hs.emitFrame_counters chunk
  have hend := State.off_add_chunkLen_le hs.off
  have hlast : s.chunkLast = true ↔ s.segOff.toNat + s.chunkLen = s.segLen.toNat := decide_eq_true_iff
  have hstate : (s.emitFrame Config.params chunk).complete.segState = if s.chunkLast then .done else .active := by
    rw [State.complete_segState, State.emitFrame_segState, h]
  exact {
    maxChunk := hs.maxChunk
    len := hs.len
    off := hoff ▸ hend
    frames := by
      rw [State.complete_segNframes, State.complete_segOff, hframes, hoff]
      obtain hpos | ⟨-, hlen, hn⟩ := hs.chunkLen_pos_or h
      · obtain hold | ⟨hlen, -⟩ := hs.frames
        · exact .inl (by omega)
        · have hzero : s.segLen.toNat = 0 := congrArg BitVec.toNat hlen
          omega
      · exact .inr ⟨hlen, by rw [hn]; decide⟩
    chunk := fun _ => hs.chunk (by simp [h])
    idle := fun hidle => by
      rw [hstate] at hidle
      split at hidle <;> cases hidle
    active := fun hactive => by
      refine .inl (Nat.lt_of_le_of_ne (hoff ▸ hend) fun heq => ?_)
      rw [State.complete_segOff, hoff] at heq
      rw [hstate, if_pos (hlast.2 heq)] at hactive
      cases hactive
    done := fun hdone => by
      refine ⟨BitVec.eq_of_toNat_eq (hoff.trans (hlast.1 ?_)), hframes ▸ Nat.le_add_left 1 _⟩
      by_contra hmore
      rw [hstate, if_neg hmore] at hdone
      cases hdone
    err := by
      have herr : s.segErr = 0 := hs.err.trans (if_neg (by simp [h]))
      rw [State.complete_segErr, State.emitFrame_segErr, herr, if_neg]
      rw [hstate]
      split <;> decide
    outLen := .inr (houtLen ▸ ⟨Nat.le_add_right .., hs.chunkLen_le h⟩)
    outDefined := fun _ => Memory.isSome_of_readRange
      (State.emitFrame_output Config.params (Memory.readRange_length hc)) }

/-- The Segmenter's invariant is about the Segmenter's part of the state. -/
theorem SegmenterOk.of_same {t : State} (hs : SegmenterOk s) (h : SameSegmenter s t) : SegmenterOk t := by
  rw [h.eq_withSegmenter]
  exact ⟨hs.maxChunk, hs.len, hs.off, hs.frames, hs.chunk, hs.idle, hs.active, hs.done, hs.err, hs.outLen,
    hs.outDefined⟩

/-- The payload in `SEG_BUF` is the host's and may be anything. -/
theorem SegmenterOk.withSegBuf (hs : SegmenterOk s) (m : Memory) : SegmenterOk { s with segBuf := m } :=
  ⟨hs.maxChunk, hs.len, hs.off, hs.frames, hs.chunk, hs.idle, hs.active, hs.done, hs.err, hs.outLen, hs.outDefined⟩

end Segmenter

/-! ### The Reassembler (R36) -/

/-- What holds of the Reassembler's counters and of its bytes, whatever its state. -/
structure CountersOk (s : State) : Prop where
  len : s.rsmLen.toNat ≤ Config.params.maxReassembledSize
  defined : ∀ i, i < s.rsmLen.toNat → (s.cell .rsmBuf i).isSome
  frames : s.rsmNframes.toNat ≤ Config.params.maxFrames + 1

section Reassembler
variable {s : State}

theorem ReassemblerOk.counters (hs : ReassemblerOk s) : CountersOk s := ⟨hs.len, hs.defined, hs.frames⟩

/-- The Reassembler's invariant is about the Reassembler's part of the state. -/
theorem ReassemblerOk.of_same {t : State} (hs : ReassemblerOk s) (h : SameReassembler s t) : ReassemblerOk t := by
  rw [h.eq_withReassembler]
  exact ⟨hs.len, hs.defined, hs.frames, hs.collecting, hs.idle, hs.err, hs.cause⟩

/-- The frame in `FRAME_IN` is the host's and may be anything. -/
theorem ReassemblerOk.withFrameIn (hs : ReassemblerOk s) (m : Memory) : ReassemblerOk { s with frameIn := m } :=
  ⟨hs.len, hs.defined, hs.frames, hs.collecting, hs.idle, hs.err, hs.cause⟩

theorem ReassemblerOk.rsmErr_eq_zero (hs : ReassemblerOk s) (h : s.rsmState ≠ .error) : s.rsmErr = 0 := by
  have herr := hs.err
  rwa [if_neg h] at herr

theorem ReassemblerOk.openReassembly (cmd : CommandId) (s : State) : ReassemblerOk (s.openReassembly cmd).complete where
  len := Nat.zero_le _
  defined _ hi := absurd hi (Nat.not_lt_zero _)
  frames := Nat.zero_le _
  collecting _ := Nat.zero_le _
  idle h := by cases h
  err := rfl
  cause := rfl

/-- The error transition meets the invariant with each error code it is made with, and with a cause exactly for
LIMIT_EXCEEDED (R26, R27, R142). -/
theorem CountersOk.rsmFail (hs : CountersOk s) {c : Code} {cause : BitVec 2}
    (hc : (c = .formatError ∨ c = .protocolMismatch) ∧ cause = 0 ∨ c = .limitExceeded ∧ (cause = 1 ∨ cause = 2)) :
    ReassemblerOk (s.rsmFail c cause) where
  len := hs.len
  defined := hs.defined
  frames := hs.frames
  collecting h := by cases h
  idle h := by cases h
  err := by
    obtain ⟨rfl | rfl, -⟩ | ⟨rfl, -⟩ := hc
    exacts [.inl rfl, .inr (.inl rfl), .inr (.inr rfl)]
  cause := by
    obtain ⟨rfl | rfl, rfl⟩ | ⟨rfl, hcause⟩ := hc
    exacts [rfl, rfl, hcause]

theorem Rejects.code {n : BitVec 9} {c : Code} (h : Rejects s n c) : c = .formatError ∨ c = .protocolMismatch := by
  cases h with
  | short | malformed => exact .inl rfl
  | mismatch => exact .inr rfl

/-- A frame is counted once more than `MAX_FRAMES` at most, since COLLECTING has no more (R12). -/
theorem ReassemblerOk.countFrame (hs : ReassemblerOk s) (h : s.rsmState = .collecting) : CountersOk s.countFrame where
  len := hs.len
  defined := hs.defined
  frames := by
    have hframes : s.rsmNframes.toNat ≤ 10 := hs.collecting h
    rw [State.countFrame_rsmNframes, BitVec.toNat_ofNat, Nat.mod_eq_of_lt (by omega)]
    exact Nat.succ_le_succ hframes

section Takes
variable (hs : ReassemblerOk s) {n : BitVec 9} {h : Header} {payload : List Byte} (ht : s.Takes n h payload)
include hs ht

theorem ReassemblerOk.taken_counters :
    (s.countFrame.appendPayload payload).rsmLen.toNat = s.rsmLen.toNat + payload.length ∧
    (s.countFrame.appendPayload payload).rsmNframes.toNat = s.rsmNframes.toNat + 1 :=
  hs.consumed_counters ht.state ((Memory.readRange_length ht.payload).symm ▸ ht.size)

/-- A frame taken keeps the size limit, and its bytes are defined where the accumulated ones end. -/
theorem ReassemblerOk.taken : CountersOk (s.countFrame.appendPayload payload) where
  len := by
    rw [(hs.taken_counters ht).1, Memory.readRange_length ht.payload]
    exact ht.size
  defined i hi := by
    rw [(hs.taken_counters ht).1] at hi
    change ((s.rsmBuf.writeRange s.rsmLen.toNat payload).read i).isSome
    rw [Memory.read_writeRange]
    split
    · rw [List.getElem?_eq_getElem (by omega)]
      rfl
    · exact hs.defined i (by omega)
  frames := (hs.countFrame ht.state).frames

theorem ReassemblerOk.taken_last :
    ReassemblerOk (State.complete { s.countFrame.appendPayload payload with rsmState := .sealed }) where
  len := (hs.taken ht).len
  defined := (hs.taken ht).defined
  frames := (hs.taken ht).frames
  collecting h := by cases h
  idle h := by cases h
  err := hs.rsmErr_eq_zero (by simp [ht.state])
  cause := hs.cause

theorem ReassemblerOk.taken_more (hfits : s.rsmNframes.toNat + 1 ≤ Config.params.maxFrames) :
    ReassemblerOk (s.countFrame.appendPayload payload).complete where
  len := (hs.taken ht).len
  defined := (hs.taken ht).defined
  frames := (hs.taken ht).frames
  collecting _ := (hs.taken_counters ht).2 ▸ hfits
  idle h := absurd (ht.state.symm.trans h) (by decide)
  err := hs.err
  cause := hs.cause

end Takes

end Reassembler

/-! ### A command keeps the invariant -/

section Commands
variable {s t : State} {i : Instr}

theorem SegmenterOk.of_completes (hs : SegmenterOk s) (h : Completes s i t) : SegmenterOk t := by
  cases h with
  | setMaxchunk h hmax => exact hs.setMaxchunk h hmax
  | segStart mt cmd h => exact hs.openMessage mt cmd h
  | segNext h hc => exact hs.emitFrame h hc
  | segFail h => exact hs.segFail h
  | _ => exact hs.of_same (.refl s)

theorem ReassemblerOk.of_completes (hs : ReassemblerOk s) (h : Completes s i t) : ReassemblerOk t := by
  cases h with
  | rsmStart cmd => exact .openReassembly cmd s
  | pushRejected h => exact hs.counters.rsmFail (.inl ⟨h.code, rfl⟩)
  | pushOversize hp hover => exact (hs.countFrame hp.state).rsmFail (.inr ⟨rfl, .inr rfl⟩)
  | pushOvercount ht hmore hover => exact (hs.taken ht).rsmFail (.inr ⟨rfl, .inl rfl⟩)
  | pushLast ht hlast => exact hs.taken_last ht
  | pushMore ht hmore hfits => exact hs.taken_more ht hfits
  | _ => exact hs.of_same (.refl s)

/-- SEG_NEXT writes inside `FRAME_OUT` and RSM_PUSH inside `RSM_BUF`; nothing else writes a buffer. -/
theorem Inv.buffers_of_completes (hs : Inv s) (h : Completes s i t) : BuffersOk t := by
  obtain ⟨hseg, hout, hin, hrsm⟩ := buffersOk_iff.1 hs.buffers
  have hpush {n : BitVec 9} {hdr : Header} {payload : List Byte} (ht : s.Takes n hdr payload) :
      (s.rsmBuf.writeRange s.rsmLen.toNat payload).Within Config.params.rsmCapacity :=
    hrsm.writeRange ((Memory.readRange_length ht.payload).symm ▸ ht.size)
  cases h with
  | segNext h hc =>
    refine buffersOk_iff.2 ⟨hseg, (hout.writeRange ?_).writeRange ?_, hin, hrsm⟩
    · rw [hdrEncode_length]
      decide
    · rw [Memory.readRange_length hc]
      exact hs.segmenter.chunkLen_le h
  | pushOvercount ht | pushLast ht | pushMore ht => exact buffersOk_iff.2 ⟨hseg, hout, hin, hpush ht⟩
  | _ => exact buffersOk_iff.2 ⟨hseg, hout, hin, hrsm⟩

/-- HDR_ENC writes a zero byte between the fields of the header (R103); nothing else writes `HDR_OUT`. -/
theorem reserved_of_completes (hs : s.hdrOut.extractLsb' 8 8 = 0) (h : Completes s i t) :
    t.hdrOut.extractLsb' 8 8 = 0 := by
  cases h with
  | hdrEnc mt pbf cmd len =>
    exact congrArg Header.rsv (wordHeader_bytesRegister_hdrEncode mt pbf cmd len)
  | _ => exact hs

/-- Every command keeps the invariant. -/
theorem Inv.of_completes (hs : Inv s) (h : Completes s i t) : Inv t where
  buffers := hs.buffers_of_completes h
  segmenter := hs.segmenter.of_completes h
  reassembler := hs.reassembler.of_completes h
  code := by
    obtain ⟨u, c, hu, hc⟩ | ⟨-, hundef⟩ := (CommandEnd.of_exec i s).writes_code_or_undefinedRead
    · obtain rfl := Host.Outcome.next.inj (h.exec_eq.symm.trans hu)
      exact ⟨c, hc⟩
    · exact absurd (h.exec_eq.symm.trans hundef) (by simp)
  reserved := reserved_of_completes hs.reserved h

end Commands

/-! ### A step keeps the invariant -/

section Steps
variable {s : State}

/-- The invariant is about the block and not about the host's actions (R42). -/
theorem Inv.of_toBlock {t : State} (hs : Inv s) (h : t.toBlock = s.toBlock) : Inv t := by
  have ht : t = { t with toBlock := s.toBlock } := by rw [← h]
  rw [ht]
  exact ⟨⟨hs.buffers.wf, hs.buffers.inside⟩, hs.segmenter.of_same (.refl s), hs.reassembler.of_same (.refl s), hs.code,
    hs.reserved⟩

/-- An illegal word writes only ILLEGAL_COMMAND to `LAST_CODE`. -/
theorem Inv.illegalCommand (hs : Inv s) : Inv (s.raise .illegalCommand) where
  buffers := ⟨hs.buffers.wf, hs.buffers.inside⟩
  segmenter := hs.segmenter.of_same (.refl s)
  reassembler := hs.reassembler.of_same (.refl s)
  code := ⟨.illegalCommand, by decide, rfl⟩
  reserved := hs.reserved

theorem Inv.withDin (hs : Inv s) (v : Word) : Inv { s with din := v } where
  buffers := ⟨hs.buffers.wf, hs.buffers.inside⟩
  segmenter := hs.segmenter.of_same (.refl s)
  reassembler := hs.reassembler.of_same (.refl s)
  code := hs.code
  reserved := hs.reserved

theorem Inv.writeSegBuf (hs : Inv s) {i : Nat} (hi : i < Config.params.segCapacity) (v : Byte) :
    Inv { s with segBuf := s.segBuf.write i v } where
  buffers := by
    obtain ⟨hseg, hrest⟩ := buffersOk_iff.1 hs.buffers
    exact buffersOk_iff.2 ⟨hseg.write hi v, hrest⟩
  segmenter := hs.segmenter.withSegBuf _
  reassembler := hs.reassembler.of_same (.refl s)
  code := hs.code
  reserved := hs.reserved

theorem Inv.writeFrameIn (hs : Inv s) {i : Nat} (hi : i < Config.params.frameInCapacity) (v : Byte) :
    Inv { s with frameIn := s.frameIn.write i v } where
  buffers := by
    obtain ⟨hseg, hout, hin, hrsm⟩ := buffersOk_iff.1 hs.buffers
    exact buffersOk_iff.2 ⟨hseg, hout, hin.write hi v, hrsm⟩
  segmenter := hs.segmenter.of_same (.refl s)
  reassembler := hs.reassembler.withFrameIn _
  code := hs.code
  reserved := hs.reserved

/-- Every host access keeps the invariant: an address that names a cell is inside its buffer. -/
theorem Inv.of_hostAccess {t : State} {e : HostEvent} (hs : Inv s)
    (h : hostAccess Config.params exec e s = .next t) : Inv t := by
  obtain ⟨v, d, rfl⟩ | ⟨v, rfl⟩ | ⟨a, w, rfl, -, hrun⟩ | ⟨a, i, v, hloc, rfl⟩ | ⟨a, i, v, hloc, rfl⟩ :=
    hostAccess_cases h
  · exact hs.of_toBlock rfl
  · exact hs.withDin v
  · obtain ⟨e, -, rfl⟩ | ⟨i, -, hexec⟩ := execWord_cases hrun
    · exact hs.illegalCommand
    · exact hs.of_completes (exec_eq_next_iff.1 hexec)
  · exact hs.writeSegBuf (locate_cell hloc) v
  · exact hs.writeFrameIn (locate_cell hloc) v

end Steps

theorem Inv.reset : Inv State.reset where
  buffers := ⟨State.reset_buffer_wf, fun b i _ => State.reset_cell b i⟩
  segmenter := ⟨by decide, by decide, by decide, by decide, by decide, by decide, by decide, by decide, by decide,
    by decide, by decide⟩
  reassembler := ⟨by decide, by decide, by decide, by decide, by decide, by decide, by decide⟩
  code := ⟨.ok, by decide, rfl⟩
  reserved := rfl

/-- Settles O36: no cell is defined after reset, and the registers have their listed values. -/
theorem invAtReset : Obligations.InvAtReset := Inv.reset

/-- Settles O37: a step takes an action off the list, resets the block, or makes a host access. -/
theorem stepKeepsInv : Obligations.StepKeepsInv := by
  intro s t hs h
  obtain ⟨-, -, rfl⟩ | ⟨e, rest, -, ⟨-, rfl⟩ | ⟨-, -, rfl⟩ | ⟨-, rfl⟩ | ⟨-, -, haccess⟩⟩ := step_cases h
  · exact hs
  · exact hs.of_toBlock rfl
  · exact Inv.reset.of_toBlock rfl
  · exact hs.of_toBlock rfl
  · exact (hs.of_toBlock rfl : Inv { s with pending := rest, readData := none }).of_hostAccess haccess

end Sys2Proof.Machine
end

section
/-! SUPPORT. What single commands of the two units do (R40, R129, R140, R143): the bytes SEG_NEXT reads, how RSM_PUSH
takes a frame, and what a sealed reassembly holds. -/

namespace Sys2Proof.Machine

/-! ### SEG_NEXT (R129) -/

/-- Settles O18: the chunk starts at `SEG_OFF`. -/
theorem emittedBytesNoLongerMatter : Obligations.EmittedBytesNoLongerMatter := by
  intro s t m hsame h
  have hchunk : State.chunkBytes { s with segBuf := m } = s.chunkBytes :=
    Memory.readRange_congr fun k _ => hsame _ (Nat.le_add_right ..)
  cases exec_eq_next_iff.1 h with
  | raised hr =>
    cases hr with
    | nextSequence hstate => exact exec_segNext_of_not_active (s := { s with segBuf := m }) hstate
  | segNext hactive hc => exact exec_segNext_of_chunk (s := { s with segBuf := m }) hactive (hchunk.trans hc)

/-! ### RSM_PUSH (R143) -/

section Push
variable {s : State} {n : BitVec 9} {h : Header} {payload : List Byte} {pbf : BoundaryFlag} {rsv len : Byte}

theorem State.accepts.passes (ha : s.accepts n pbf rsv len) :
    s.Passes n ⟨Config.params.mtResponse, pbf, s.rsmCmd, len, rsv⟩ where
  state := ha.state
  count := ha.count
  min := Nat.le_of_add_right_le ha.whole
  header := ⟨_, ha.header.inboundHeader, hdrDecode_accepted ..⟩
  cmd := rfl
  mt := rfl
  chunk := ha.chunk
  whole := ha.whole

/-- A frame taken that keeps the frame limit, or is the last, completes; the last one seals (R146). -/
theorem State.Takes.completes (ht : s.Takes n h payload)
    (hframes : h.pbf = Config.params.pbfLast ∨ s.rsmNframes.toNat + 1 ≤ Config.params.maxFrames) :
    Completes s (.rsmPush n) (State.complete { s.countFrame.appendPayload payload with
      rsmState := if h.pbf = Config.params.pbfLast then .sealed else .collecting }) := by
  by_cases hlast : h.pbf = Config.params.pbfLast
  · rw [if_pos hlast]
    exact .pushLast ht hlast
  · rw [if_neg hlast, ← ht.state]
    exact .pushMore ht hlast (hframes.resolve_left hlast)

/-- A frame taken adds its payload's cells to `RSM_BUF` after the bytes accumulated. -/
theorem State.Takes.appendPayload_read (ht : s.Takes n h payload) (j : Nat) :
    (s.rsmBuf.writeRange s.rsmLen.toNat payload).read j =
      if s.rsmLen.toNat ≤ j ∧ j < s.rsmLen.toNat + h.len.toNat then s.cell .frameIn (8 + (j - s.rsmLen.toNat))
      else s.cell .rsmBuf j := by
  obtain ⟨hlen, hcells⟩ := (Memory.readRange_eq_some ..).1 ht.payload
  rw [Memory.read_writeRange, hlen]
  split
  · exact (hcells _ (by omega)).symm
  · rfl

end Push

/-- Settles O20: the frame is taken, and it is the last or keeps the frame limit. -/
theorem rsmPushConsumesAFrame : Obligations.RsmPushConsumesAFrame := by
  intro s n pbf rsv len ha hsize hframes hdef
  obtain ⟨payload, hpayload⟩ := State.exists_inboundPayload hdef
  have ht : s.Takes n ⟨Config.params.mtResponse, pbf, s.rsmCmd, len, rsv⟩ payload := ⟨ha.passes, hsize, hpayload⟩
  refine ⟨s.rsmBuf.writeRange s.rsmLen.toNat payload, (ht.completes hframes).exec_eq.trans ?_,
    ht.appendPayload_read⟩
  rw [State.appendPayload, Memory.readRange_length hpayload]
  rfl

/-- Settles O26: a range with an undef cell cannot be read. -/
theorem rsmPushStopsOnUndefinedBytes : Obligations.RsmPushStopsOnUndefinedBytes := by
  refine fun s n => ⟨fun hc hn hmin hundef => ?_, fun pbf rsv len ha hsize hundef => ?_⟩
  · exact exec_rsmPush_of_undef hc hn hmin ((Memory.readRange_eq_none ..).2 hundef)
  · exact ha.passes.exec_rsmPush_of_undef hsize ((Memory.readRange_eq_none ..).2 hundef)

/-- Settles O21: the Reassembler's state is checked first, then the operand's range. -/
theorem rsmPushOutOfSequenceOrRange : Obligations.RsmPushOutOfSequenceOrRange := fun _ s =>
  ⟨fun h => exec_rsmPush_of_not_collecting h, fun hc h => rsmPushWith_out_of_range (s := s) hc h⟩

/-! ### The message accumulated (R35, R36, R40) -/

/-- A reassembly that a state with the invariant represents keeps the limits. -/
theorem ReassemblerOk.bounded {s : State} {cmd : CommandId} {r : Reassembly} (hs : ReassemblerOk s)
    (h : s.represents cmd r) : r.Bounded Config.params := by
  cases r with
  | collecting acc count =>
    obtain ⟨-, hstate, hacc, rfl⟩ := h
    exact ⟨State.accumulated_length hacc ▸ hs.len, hs.collecting hstate⟩
  | sealed bytes => trivial
  | failed code cause => trivial

/-- Settles O28: the invariant keeps the reassembly within its limits. -/
theorem pushRefinesReassembly : Obligations.PushRefinesReassembly :=
  fun _ _ _ _ hs hr hlen => pushFrame_refines hr (hs.reassembler.bounded hr) hlen

/-- The bytes accumulated are defined, so that they can be read. -/
theorem ReassemblerOk.exists_accumulated {s : State} (hs : ReassemblerOk s) : ∃ bytes, s.accumulated = some bytes := by
  refine Option.ne_none_iff_exists'.1 fun hnone => ?_
  obtain ⟨k, hk, hcell⟩ := (Memory.readRange_eq_none ..).1 hnone
  have hdef := hs.defined k hk
  rw [Nat.zero_add] at hcell
  simp [State.cell, State.buffer, hcell] at hdef

/-- Settles O44: while SEALED the result is what is accumulated. -/
theorem sealedHasAResult : Obligations.SealedHasAResult := by
  refine fun s hs => ⟨fun hsealed => ?_, fun h => if_neg h⟩
  obtain ⟨bytes, hbytes⟩ := hs.reassembler.exists_accumulated
  obtain ⟨hlen, hcells⟩ := (Memory.readRange_eq_some ..).1 hbytes
  refine ⟨bytes, (if_pos hsealed).trans hbytes, hlen, hlen ▸ hs.reassembler.len, fun k hk => ?_⟩
  rw [← hcells k (hlen ▸ hk), Nat.zero_add]
  rfl

end Sys2Proof.Machine
end

section
/-! SUPPORT. The units (R65): the registers each command writes, and that a unit's command reads and writes its own
unit only, so that the commands of the two units can be interleaved. -/

namespace Sys2Proof.Machine

/-- Settles O39: each way to complete leaves a state that differs in its command's registers only. -/
theorem onlyItsCommandsWriteARegister : Obligations.OnlyItsCommandsWriteARegister := by
  intro i s t h
  cases exec_eq_next_iff.1 h
  all_goals simp [SameOutside, State.latchHeader, State.openMessage, State.openReassembly]

section Units
variable {s s' t : State} {i : Instr}

/-- A Segmenter command completes in the same way beside another Reassembler and another HeaderCodec. -/
theorem Completes.withSegmenter (h : Completes s i t) (hi : i.isSegmenter = true) (r : State) :
    Completes (r.withSegmenter s) i { r.withSegmenter t with lastCode := t.lastCode } := by
  cases h with
  | raised hr =>
    cases hr with
    | maxchunkRange h => exact .raised (.maxchunkRange h)
    | startRange h => exact .raised (.startRange h)
    | nextSequence h => exact .raised (s := r.withSegmenter s) (.nextSequence h)
    | failSequence h => exact .raised (s := r.withSegmenter s) (.failSequence h)
    | _ => cases hi
  | setMaxchunk h hmax => exact .setMaxchunk h hmax
  | segStart mt cmd h => exact .segStart mt cmd h
  | segNext h hc => exact .segNext (s := r.withSegmenter s) h hc
  | segFail h => exact .segFail (s := r.withSegmenter s) h
  | _ => cases hi

/-- The frame that RSM_PUSH takes is the Reassembler's. -/
theorem State.Finds.withReassembler {n : BitVec 9} {h : Header} (hf : s.Finds n h) (r : State) :
    (r.withReassembler s).Finds n h := ⟨hf.state, hf.count, hf.min, hf.header⟩

theorem State.Passes.withReassembler {n : BitVec 9} {h : Header} (hp : s.Passes n h) (r : State) :
    (r.withReassembler s).Passes n h := ⟨hp.toFinds.withReassembler r, hp.cmd, hp.mt, hp.chunk, hp.whole⟩

theorem State.Takes.withReassembler {n : BitVec 9} {h : Header} {payload : List Byte} (ht : s.Takes n h payload)
    (r : State) : (r.withReassembler s).Takes n h payload := ⟨ht.toPasses.withReassembler r, ht.size, ht.payload⟩

theorem Rejects.withReassembler {n : BitVec 9} {c : Code} (h : Rejects s n c) (r : State) :
    Rejects (r.withReassembler s) n c := by
  cases h with
  | short hc hn h => exact .short hc hn h
  | mismatch hf hproto => exact .mismatch (hf.withReassembler r) hproto
  | malformed hf hcmd hmt hbad => exact .malformed (hf.withReassembler r) hcmd hmt hbad

/-- A Reassembler command completes in the same way beside another Segmenter and another HeaderCodec. -/
theorem Completes.withReassembler (h : Completes s i t) (hi : i.isReassembler = true) (r : State) :
    Completes (r.withReassembler s) i { r.withReassembler t with lastCode := t.lastCode } := by
  cases h with
  | raised hr =>
    cases hr with
    | pushSequence h => exact .raised (s := r.withReassembler s) (.pushSequence h)
    | pushRange hc h => exact .raised (s := r.withReassembler s) (.pushRange hc h)
    | _ => cases hi
  | rsmStart cmd => exact .rsmStart cmd
  | pushRejected h => exact .pushRejected (h.withReassembler r)
  | pushOversize hp hover => exact .pushOversize (hp.withReassembler r) hover
  | pushOvercount ht hmore hover => exact .pushOvercount (ht.withReassembler r) hmore hover
  | pushLast ht hlast => exact .pushLast (ht.withReassembler r) hlast
  | pushMore ht hmore hfits => exact .pushMore (ht.withReassembler r) hmore hfits
  | _ => cases hi

/-- What a Segmenter command does depends on the Segmenter only and changes nothing else but `LAST_CODE` (R65). -/
theorem exec_of_sameSegmenter (hi : i.isSegmenter = true) (h : exec i s = .next t) (hs : SameSegmenter s s') :
    exec i s' = .next { s'.withSegmenter t with lastCode := t.lastCode } := by
  have hexec := ((exec_eq_next_iff.1 h).withSegmenter hi s').exec_eq
  rwa [← hs.eq_withSegmenter] at hexec

/-- What a Reassembler command does depends on the Reassembler only and changes nothing else but `LAST_CODE` (R65). -/
theorem exec_of_sameReassembler (hi : i.isReassembler = true) (h : exec i s = .next t) (hs : SameReassembler s s') :
    exec i s' = .next { s'.withReassembler t with lastCode := t.lastCode } := by
  have hexec := ((exec_eq_next_iff.1 h).withReassembler hi s').exec_eq
  rwa [← hs.eq_withReassembler] at hexec

theorem eq_withSegmenter_of_exec (hi : i.isSegmenter = true) (h : exec i s = .next t) :
    t = { s.withSegmenter t with lastCode := t.lastCode } :=
  Host.Outcome.next.inj (h.symm.trans (exec_of_sameSegmenter hi h (.refl s)))

theorem eq_withReassembler_of_exec (hi : i.isReassembler = true) (h : exec i s = .next t) :
    t = { s.withReassembler t with lastCode := t.lastCode } :=
  Host.Outcome.next.inj (h.symm.trans (exec_of_sameReassembler hi h (.refl s)))

end Units

/-- Settles O41: what the command leaves is its unit's part of the state, beside the rest as it was. -/
theorem unitsReadOnlyThemselves : Obligations.UnitsReadOnlyThemselves :=
  ⟨fun _ _ _ t hi hs h => ⟨_, exec_of_sameSegmenter hi h hs, .refl t, rfl⟩,
    fun _ _ _ t hi hs h => ⟨_, exec_of_sameReassembler hi h hs, .refl t, rfl⟩⟩

theorem SameCodec.refl (s : State) : SameCodec s s := ⟨rfl, rfl, rfl, rfl, rfl, rfl⟩

/-- Settles O40: a unit's command leaves the rest of the state as it was, and a HeaderCodec command writes none of the
units' registers. -/
theorem unitsChangeOnlyThemselves : Obligations.UnitsChangeOnlyThemselves := by
  refine fun i s t h => ⟨fun hi => ?_, fun hi => ?_, fun hseg hrsm => ?_⟩
  · rw [eq_withSegmenter_of_exec hi h]
    exact ⟨.refl s, .refl s⟩
  · rw [eq_withReassembler_of_exec hi h]
    exact ⟨.refl s, .refl s⟩
  · cases exec_eq_next_iff.1 h with
    | raised | hdrEnc | hdrDec => exact ⟨.refl s, .refl s⟩
    | setMaxchunk | segStart | segNext | segFail => cases hseg
    | _ => cases hrsm

/-- Settles O42: each command finds its own unit as it would without the other, and leaves the other's as it was. -/
theorem unitsCommute : Obligations.UnitsCommute := by
  intro i j s a b hi hj ha hb
  have hsa : SameReassembler a s := by
    rw [eq_withSegmenter_of_exec hi ha]
    exact .refl s
  have hc := exec_of_sameReassembler hj hb hsa
  refine ⟨_, _, hc, exec_of_sameSegmenter hi ha (.refl s), ?_, rfl⟩
  conv_rhs => rw [eq_withReassembler_of_exec hj hb, eq_withSegmenter_of_exec hi ha]
  rfl

end Sys2Proof.Machine
end

section
/-! SUPPORT. The host window (R50 to R56): what each address names, what an access of each kind does there, the fields
of STATUS, and the accesses that are misuses. -/

namespace Sys2Proof.Machine

/-! ### STATUS (R23) -/

section Status
variable (s : State)

theorem State.toNat_statusWord : s.statusWord.toNat =
    ((((s.rsmLimitCause.toNat * 2 ^ 4 + s.rsmErr.toNat) * 2 ^ 4 + s.segErr.toNat) * 2 ^ 2 + s.rsmState.bits.toNat) *
      2 ^ 2 + s.segState.bits.toNat) * 2 ^ 4 + s.lastCode.toNat := by
  simp only [State.statusWord, toNat_append_add, BitVec.toNat_ofNat]
  omega

theorem State.statusWord_segState : s.statusWord.extractLsb' 4 2 = s.segState.bits := by
  apply BitVec.eq_of_toNat_eq
  rw [toNat_field, s.toNat_statusWord]
  omega

theorem State.statusWord_rsmState : s.statusWord.extractLsb' 6 2 = s.rsmState.bits := by
  apply BitVec.eq_of_toNat_eq
  rw [toNat_field, s.toNat_statusWord]
  omega

end Status

/-- Settles O46: each field is cut out of STATUS where it was put, and a unit's state stands there as its encoding. -/
theorem statusFieldPositions : Obligations.StatusFieldPositions := by
  intro s
  have hseg {u : SegState} (h : s.segState = u) : s.statusWord.extractLsb' 4 2 = u.bits :=
    s.statusWord_segState.trans (h ▸ rfl)
  have hrsm {u : RsmState} (h : s.rsmState = u) : s.statusWord.extractLsb' 6 2 = u.bits :=
    s.statusWord_rsmState.trans (h ▸ rfl)
  refine ⟨?_, hseg, hseg, hseg, hseg, hrsm, hrsm, hrsm, hrsm, ?_, ?_, ?_, ?zero⟩
  all_goals
    apply BitVec.eq_of_toNat_eq
    rw [toNat_field, s.toNat_statusWord]
  case zero => change _ = 0; omega
  all_goals omega

/-! ### What an address names (R51) -/

/-- The registers stand at the multiples of 4 in the order of the map. -/
theorem locate_eq_reg_iff {p : Params} {a : HostAddr} {r : Reg} :
    locate p a = some (.reg r) ↔ a.toNat % 4 = 0 ∧ registerMap[a.toNat / 4]? = some r := by
  unfold locate
  dsimp only
  split
  · next h => simp [h.1]
  · next h =>
    constructor
    · intro hcell
      obtain ⟨b, -, hb⟩ := Option.map_eq_some_iff.1 hcell
      cases hb
    · rintro ⟨hmod, hr⟩
      exact absurd ⟨hmod, (List.getElem?_eq_some_iff.1 hr).1⟩ h

/-- A cell stands at its buffer's base plus its index. -/
theorem toNat_of_locate_cell {p : Params} {a : HostAddr} {b : Buf} {i : Nat} (h : locate p a = some (.cell b i)) :
    a.toNat = b.base + i := by
  unfold locate at h
  dsimp only at h
  split at h
  · simp at h
  · obtain ⟨b', hb', heq⟩ := Option.map_eq_some_iff.1 h
    have hold := List.find?_some hb'
    simp only [Place.cell.injEq] at heq
    obtain ⟨rfl, rfl⟩ := heq
    simp only [Buf.holds, Bool.and_eq_true, decide_eq_true_eq] at hold
    omega

/-- Only address 8 names `DIN`. -/
theorem locate_din {p : Params} {a : HostAddr} (h : locate p a = some (.reg .din)) : a = 0x0008 := by
  obtain ⟨hmod, hr⟩ := locate_eq_reg_iff.1 h
  have hindex : ∀ k, k < registerMap.length → registerMap[k]? = some .din → k = 2 := by decide
  have hk := hindex _ (List.getElem?_eq_some_iff.1 hr).1 hr
  exact BitVec.eq_of_toNat_eq (show a.toNat = 8 by omega)

/-- No register stands at an address that is no multiple of 4 or lies past the map. -/
theorem locate_ne_reg {a : HostAddr} (h : a.toNat % 4 ≠ 0 ∨ 0x0050 ≤ a.toNat) (r : Reg) :
    locate Config.params a ≠ some (.reg r) := by
  intro hloc
  obtain ⟨hmod, hr⟩ := locate_eq_reg_iff.1 hloc
  have hlt : a.toNat / 4 < 20 := (List.getElem?_eq_some_iff.1 hr).1
  omega

/-! ### A host access where it lands (R51 to R56) -/

section Access
variable {s : State} {a : HostAddr} {r : Reg} {rest : List HostEvent}

theorem readRegister_of_ne_cmd (h : r ≠ .cmd) (s : State) : readRegister r s = .next (s.returning (s.register r)) := by
  cases r with
  | cmd => exact absurd rfl h
  | _ => rfl

theorem step_rd32 (h : s.about (.rd32 a) rest) (hloc : locate Config.params a = some (.reg r)) :
    step s = readRegister r (s.taking rest) := by
  rw [step_about h (by simp) (by simp), hostAccess, hloc]

theorem step_wr32 {v : Word} (h : s.about (.wr32 a v) rest) (hloc : locate Config.params a = some (.reg r)) :
    step s = writeRegister exec r v (s.taking rest) := by
  rw [step_about h (by simp) (by simp), hostAccess, hloc]

variable {b : Buf} {i : Nat} (hi : i < b.capacity Config.params)
include hi

theorem step_rd8 (h : s.about (.rd8 (BitVec.ofNat 16 (b.base + i))) rest) :
    step s = readCell b i (s.taking rest) := by
  rw [step_about h (by simp) (by simp), hostAccess, locate_base_add b hi]

theorem step_wr8 {v : Byte} (h : s.about (.wr8 (BitVec.ofNat 16 (b.base + i)) v) rest) :
    step s = writeCell b i v (s.taking rest) := by
  rw [step_about h (by simp) (by simp), hostAccess, locate_base_add b hi]

end Access

/-- A datum in the low bits of a wider word has zeros above it (R54). -/
theorem setWidth_eq_zero_append {m n : Nat} (x : BitVec n) : x.setWidth (m + n) = 0#m ++ x := by
  apply BitVec.eq_of_toNat_eq
  rw [toNat_append_add, BitVec.toNat_setWidth, BitVec.toNat_ofNat, Nat.zero_mod, Nat.zero_mul, Nat.zero_add]
  exact Nat.mod_eq_of_lt (x.isLt.trans_le (Nat.pow_le_pow_right (by decide) (Nat.le_add_left n m)))

/-- A read of a register other than `CMD` returns the register's value. -/
theorem State.readsAs_register (s : State) {a : HostAddr} {r : Reg} {v : Word}
    (hloc : locate Config.params a = some (.reg r)) (hr : r ≠ .cmd) (hv : s.register r = v) : s.readsAs a v := by
  intro rest h
  rw [step_rd32 h hloc, readRegister_of_ne_cmd hr, ← hv]
  cases r <;> rfl

/-- Settles O47: the map gives each address its register, and a narrow register's value has zeros above it. -/
theorem hostReadsRegisters : Obligations.HostReadsRegisters := by
  intro s
  have hread (r : Reg) {a : HostAddr} {v : Word} (hloc : locate Config.params a = some (.reg r))
      (hv : s.register r = v) (hr : r ≠ .cmd := by decide) : s.readsAs a v := s.readsAs_register hloc hr hv
  exact ⟨hread .status rfl rfl, hread .din rfl rfl, hread .hdrOut rfl rfl,
    hread .decMt rfl (setWidth_eq_zero_append _), hread .decPbf rfl (setWidth_eq_zero_append _),
    hread .decCmd rfl (setWidth_eq_zero_append _), hread .decLen rfl (setWidth_eq_zero_append _),
    hread .decRsv rfl (setWidth_eq_zero_append _), hread .segMaxChunk rfl (setWidth_eq_zero_append _),
    hread .segCmd rfl (setWidth_eq_zero_append _), hread .segMt rfl (setWidth_eq_zero_append _),
    hread .segLen rfl (setWidth_eq_zero_append _), hread .segOff rfl (setWidth_eq_zero_append _),
    hread .segNframes rfl (setWidth_eq_zero_append _), hread .segChunk rfl (setWidth_eq_zero_append _),
    hread .frameOutLen rfl (setWidth_eq_zero_append _), hread .rsmCmd rfl (setWidth_eq_zero_append _),
    hread .rsmLen rfl (setWidth_eq_zero_append _), hread .rsmNframes rfl (setWidth_eq_zero_append _)⟩

/-- Settles O48: the cell's byte is returned, or a draw. -/
theorem hostReadsCells : Obligations.HostReadsCells := by
  intro s b i rest hi h
  have hstep := step_rd8 hi h
  have hcell : (s.taking rest).cell b i = s.cell b i := State.cell_congr (State.taking_toBlock rest s) b i
  refine ⟨fun v hv => ?_, fun hundef => ⟨Config.drawByte s.draws, ?_⟩⟩
  · rw [hstep, readCell, hcell, hv, ← setWidth_eq_zero_append]
    rfl
  · rw [hstep, readCell, hcell, hundef, ← setWidth_eq_zero_append]
    rfl

/-- Settles O49: a write changes the cell at its address and no other. -/
theorem hostWritesLand : Obligations.HostWritesLand := by
  refine ⟨fun s v rest h => step_wr32 (r := .din) h rfl, fun s i v rest hi h => ?_, fun s i v rest hi h => ?_⟩
  · refine ⟨_, step_wr8 (b := .segBuf) hi h, fun j => ?_⟩
    simp only [Memory.read_write, eq_comm (a := i)]
    rfl
  · refine ⟨_, step_wr8 (b := .frameIn) hi h, fun j => ?_⟩
    simp only [Memory.read_write, eq_comm (a := i)]
    rfl

/-! ### Misuses (R52, R53) -/

section Misuse
variable {s : State} {a : HostAddr}

theorem State.misuses.of_hostAccess {e : HostEvent} (ha : e ≠ .assertReset) (hr : e ≠ .releaseReset)
    (h : ∀ u : State, hostAccess Config.params exec e u = u.modelFault .hostBusMisuse) : s.misuses e :=
  fun rest hab => (step_about hab ha hr).trans (h (s.taking rest))

theorem State.misuses.of_rd32 (h : ∀ r, locate Config.params a ≠ some (.reg r)) : s.misuses (.rd32 a) := by
  refine .of_hostAccess (by simp) (by simp) fun u => ?_
  rw [hostAccess]
  split
  · next r hr => exact absurd hr (h r)
  · rfl

/-- A 32-bit write is a misuse where neither `CMD` nor `DIN` stands. -/
theorem State.misuses.of_wr32 (hcmd : locate Config.params a ≠ some (.reg .cmd))
    (hdin : locate Config.params a ≠ some (.reg .din)) (v : Word) : s.misuses (.wr32 a v) := by
  refine .of_hostAccess (by simp) (by simp) fun u => ?_
  rw [hostAccess]
  split
  · next r hr =>
    cases r with
    | cmd => exact absurd hr hcmd
    | din => exact absurd hr hdin
    | _ => rfl
  · rfl

theorem State.misuses.of_rd8 (h : ∀ b i, locate Config.params a ≠ some (.cell b i)) : s.misuses (.rd8 a) := by
  refine .of_hostAccess (by simp) (by simp) fun u => ?_
  rw [hostAccess]
  split
  · next b i hb => exact absurd hb (h b i)
  · rfl

/-- A byte write is a misuse where no cell of `SEG_BUF` or `FRAME_IN` stands. -/
theorem State.misuses.of_wr8 (hseg : ∀ i, locate Config.params a ≠ some (.cell .segBuf i))
    (hin : ∀ i, locate Config.params a ≠ some (.cell .frameIn i)) (v : Byte) : s.misuses (.wr8 a v) := by
  refine .of_hostAccess (by simp) (by simp) fun u => ?_
  rw [hostAccess]
  split
  · next b i hb =>
    cases b with
    | segBuf => exact absurd hb (hseg i)
    | frameIn => exact absurd hb (hin i)
    | _ => rfl
  · rfl

/-- A cell is named only inside its buffer's window. -/
theorem locate_ne_cell {b : Buf} (h : a.toNat < b.base ∨ b.base + b.capacity Config.params ≤ a.toNat) (i : Nat) :
    locate Config.params a ≠ some (.cell b i) := by
  intro hloc
  have haddr := toNat_of_locate_cell hloc
  have hin := locate_cell hloc
  omega

end Misuse

/-- Settles O50: what the address names takes no such access. -/
theorem hostMisuseFaults : Obligations.HostMisuseFaults := by
  intro s a w v bits
  refine ⟨.of_hostAccess (by simp) (by simp) fun u => rfl, fun h => ?_, fun hcmd hdin => ?_, fun h => ?_,
    fun h => ?_, .of_hostAccess (by simp) (by simp) fun u => rfl⟩
  · exact ⟨.of_rd32 (locate_ne_reg h), .of_wr32 (locate_ne_reg h _) (locate_ne_reg h _) w⟩
  · refine .of_wr32 (fun hloc => ?_) (fun hloc => hdin (locate_din hloc)) w
    have hzero := locate_cmd hloc
    exact absurd (hzero ▸ hcmd) (by decide)
  · have hnone (b : Buf) (i : Nat) : locate Config.params a ≠ some (.cell b i) := by
      refine locate_ne_cell ?_ i
      cases b <;> simp only [Buf.base, Buf.capacity, Config.params] <;> omega
    exact ⟨.of_rd8 hnone, .of_wr8 (hnone _) (hnone _) v⟩
  · refine .of_wr8 (locate_ne_cell ?_) (locate_ne_cell ?_) v <;>
      simp only [Buf.base, Buf.capacity, Config.params] <;> omega

/-! ### FILL (R87) -/

theorem core_run_succ {k : Nat} {s t : State} (h : step s = .next t) :
    Sys2Proof.core.run (k + 1) s = Sys2Proof.core.run k t := by
  have hstep : Sys2Proof.core.step s = .next t := h
  simp only [Host.Core.run, hstep]

/-- One byte write after another, a FILL of `SEG_BUF` inside its window is MemWrite of its bytes. -/
theorem run_fillEvents {bytes : List Byte} {i : Nat} {s : State} {rest : List HostEvent}
    (hi : i + bytes.length ≤ Config.params.segCapacity) (hp : s.pending = fillEvents .segBuf i bytes ++ rest)
    (hr : s.resetIn = false) (hf : s.faulted = none) :
    ∃ d, Sys2Proof.core.run bytes.length s =
      .next { s with segBuf := s.segBuf.writeRange i bytes, pending := rest, readData := d } := by
  induction bytes generalizing i s with
  | nil =>
    refine ⟨s.readData, ?_⟩
    obtain rfl : s.pending = rest := hp
    rfl
  | cons v bytes ih =>
    rw [List.length_cons] at hi
    have hstep := step_wr8 (b := .segBuf) (show i < Config.params.segCapacity by omega) ⟨hp, hr, hf⟩
    obtain ⟨d, hrun⟩ := ih (i := i + 1) (s := { s.taking (fillEvents .segBuf (i + 1) bytes ++ rest) with
      segBuf := s.segBuf.write i v }) (by omega) rfl hr hf
    refine ⟨d, ?_⟩
    rw [List.length_cons, core_run_succ hstep]
    exact hrun

/-- Settles O51: the cells of a written range. -/
theorem fillWritesTheBytes : Obligations.FillWritesTheBytes := by
  intro bytes i s rest hi hp hr hf
  obtain ⟨d, hrun⟩ := run_fillEvents hi hp hr hf
  exact ⟨_, hrun, rfl, fun j => Memory.read_writeRange s.segBuf i j bytes⟩

end Sys2Proof.Machine
end

section
/-! SUPPORT. A step of the block (R20, R42, R60, R76, R180), built with any parameters (R6): what it does with each
event at the head of the host's actions, what no step changes but a command or the release of reset, and the record that the
block is. -/

namespace Sys2Proof.Machine

/-! ### A step by the event at the head (R76, R180) -/

section HostStep
variable {p : Params} {run : Meanings} {s : State} {e : HostEvent} {rest : List HostEvent}

section Access
variable (ha : e ≠ .assertReset) (hrel : e ≠ .releaseReset)
include ha hrel

/-- While reset is asserted no access takes effect (R180). -/
theorem hostEvent_in_reset (hr : s.resetIn = true) : hostEvent p run e s = .next s := by
  cases e with
  | assertReset => exact absurd rfl ha
  | releaseReset => exact absurd rfl hrel
  | _ => exact if_pos hr

/-- A faulted block answers its fault (R42, R167). -/
theorem hostEvent_of_fault (hr : s.resetIn = false) {f : ModelFault} (hf : s.faulted = some f) :
    hostEvent p run e s = .fault (f.stop s) := by
  cases e with
  | assertReset => exact absurd rfl ha
  | releaseReset => exact absurd rfl hrel
  | _ => simp [hostEvent, hr, hf]

theorem hostEvent_of_sound (hr : s.resetIn = false) (hf : s.faulted = none) :
    hostEvent p run e s = hostAccess p run e s := by
  cases e with
  | assertReset => exact absurd rfl ha
  | releaseReset => exact absurd rfl hrel
  | _ => simp [hostEvent, hr, hf]

end Access

theorem hostStep_of_pending (h : s.pending = e :: rest) : hostStep p run s = hostEvent p run e (s.taking rest) := by
  rw [hostStep, h]
  rfl

/-- The release of an asserted reset leaves R41's values (R180). -/
theorem hostStep_releaseReset (h : s.pending = .releaseReset :: rest) (hr : s.resetIn = true) :
    hostStep p run s = .next { State.resetWith p with pending := rest, draws := s.draws } :=
  (hostStep_of_pending h).trans (congrArg Host.Outcome.next (if_pos hr))

/-- A write to `CMD` runs the word (R22, R76). -/
theorem hostStep_command {w : Word} (h : s.about (.wr32 0x0000 w) rest) :
    hostStep p run s = runWord run w (s.taking rest) := by
  obtain ⟨hp, hr, hf⟩ := h
  exact (hostStep_of_pending hp).trans (hostEvent_of_sound (by simp) (by simp) hr hf)

end HostStep

/-- Settles O45: the three edges of the reset input. -/
theorem resetAbandonsEverything : Obligations.ResetAbandonsEverything :=
  ⟨fun _ _ h => hostStep_of_pending h,
    fun _ _ _ h hr ha hrel => (hostStep_of_pending h).trans (hostEvent_in_reset ha hrel hr),
    fun _ _ h hr => hostStep_releaseReset h hr⟩

/-- A word is legal exactly when the decoder accepts it (R76). -/
theorem wordLegal_iff {w : Word} : wordLegal w = true ↔ ∃ i, decode w = .ok i := by
  rw [exists_decode_ok_iff_row]
  simp only [wordLegal, List.any_eq_true, Bool.and_eq_true, beq_iff_eq]
  exact exists_congr fun r => and_congr_right fun hr =>
    ⟨And.right, fun h => ⟨opField_of_row_matches hr h, h⟩⟩

/-- Settles O5: a legal word is one that the decoder accepts. -/
theorem stepRunsTheCommandWritten : Obligations.StepRunsTheCommandWritten := by
  intro s w rest h
  have hstep : step s = execWord w (s.taking rest) := hostStep_command h
  refine ⟨fun i hi => hstep.trans (execWord_ok hi _), fun hlegal => ?_, fun hillegal => ?_⟩
  · obtain ⟨i, hi⟩ := wordLegal_iff.1 hlegal
    exact ⟨i, hi, opField_of_decode hi⟩
  · refine hstep.trans (execWord_of_not_ok (fun i hi => ?_) _)
    rw [wordLegal_iff.2 ⟨i, hi⟩] at hillegal
    cases hillegal

/-! ### Any parameters (R6) -/

section Parametric
variable {p : Params} {s : State} {n : BitVec 9}

theorem rsmPushWith_of_short (hc : s.rsmState = .collecting) (hn : n.toNat ≤ p.frameInCapacity)
    (h : n.toNat < p.minInbound) : rsmPushWith p n s = .next (s.rsmFail .formatError 0) := by
  rw [rsmPushWith, if_neg (not_not_intro hc), if_neg (Nat.not_lt.2 hn), if_pos h]

theorem rsmPushWith_of_header (hc : s.rsmState = .collecting) (hn : n.toNat ≤ p.frameInCapacity)
    (hmin : p.minInbound ≤ n.toNat) {bytes : List Byte} {h : Header} (hbytes : s.inboundHeader p = some bytes)
    (hdec : hdrDecode bytes = some h) : rsmPushWith p n s = consumeFrame p n.toNat h s := by
  rw [rsmPushWith, if_neg (not_not_intro hc), if_neg (Nat.not_lt.2 hn), if_neg (Nat.not_lt.2 hmin), hbytes]
  simp only [hdec]

end Parametric

theorem execWith_setMaxchunk (p : Params) (n : BitVec 9) (s : State) :
    execWith p (.setMaxchunk n) s =
      .next (if n = 0 ∨ p.maxChunkLimit < n.toNat then { s with lastCode := 6 }
        else { s with segMaxChunk := n.setWidth 8, lastCode := 0 }) := by
  have hzero : n = 0 ↔ n.toNat = 0 := BitVec.toNat_inj.symm
  simp only [hzero]
  rfl

/-- Settles O52: each command is its meaning at `p`, and so are the window and the release of reset. -/
theorem parametersReachEveryCommand : Obligations.ParametersReachEveryCommand := by
  refine ⟨fun p s w rest h => ⟨fun i hi => ?_, fun e he => ?_⟩, fun p s n => execWith_setMaxchunk p n s,
    fun p s mt cmd len => rfl, fun p s n hc => ⟨fun h => rsmPushWith_out_of_range hc h, fun hn h => rsmPushWith_of_short hc hn h,
      fun bytes payload h hn hmin hbytes hdec => ?_⟩,
    fun p s rest h hr => ⟨hostStep_releaseReset h hr, rfl⟩, fun s => congrFun stepWith_params s⟩
  · exact (hostStep_command h).trans (runWord_ok hi ..)
  · exact (hostStep_command h).trans (runWord_error he ..)
  · have hpush := rsmPushWith_of_header hc hn hmin hbytes hdec
    refine ⟨hpush, fun hcmd hmt hchunk hwhole hsize hpayload hlimit hover => ?_⟩
    rw [consumeFrame_of_payload hcmd hmt hchunk hwhole hsize hpayload,
      State.settleFrame_of_over _ (.inr hlimit) hover, State.appendPayload, Memory.readRange_length hpayload] at hpush
    exact hpush

/-! ### What no step changes but a command or the release of reset (R38, R42, R166) -/

/-- What the host and the platform themselves can change of the state: `DIN`, the buffers the host writes, `LAST_CODE`
by an illegal word, and what stands beside the block. No cell becomes undef (R38). -/
structure HostChanges (s t : State) : Prop where
  same : t = { s with
    lastCode := t.lastCode, din := t.din, segBuf := t.segBuf, frameIn := t.frameIn, resetIn := t.resetIn,
    pending := t.pending, readData := t.readData, draws := t.draws }
  defined : ∀ b i, (s.cell b i).isSome → (t.cell b i).isSome

section Steps
variable {s t : State} {i : Instr}

theorem Memory.isSome_writeRange {m : Memory} {j : Nat} (h : (m.read j).isSome) (k : Nat) (bs : List Byte) :
    ((m.writeRange k bs).read j).isSome := by
  rw [Memory.read_writeRange]
  split
  · rw [List.getElem?_eq_getElem (by omega)]
    rfl
  · exact h

theorem HostChanges.of_hostAccess {e : HostEvent} (h : hostAccess Config.params exec e s = .next t) :
    HostChanges s t ∨ ∃ w i, e = .wr32 0x0000 w ∧ decode w = .ok i ∧ Completes s i t := by
  obtain ⟨v, d, rfl⟩ | ⟨v, rfl⟩ | ⟨a, w, rfl, hloc, hrun⟩ | ⟨a, k, v, -, rfl⟩ | ⟨a, k, v, -, rfl⟩ :=
    hostAccess_cases h
  · exact .inl ⟨rfl, fun _ _ => id⟩
  · exact .inl ⟨rfl, fun _ _ => id⟩
  · obtain ⟨e, -, rfl⟩ | ⟨i, hi, hexec⟩ := execWord_cases hrun
    · exact .inl ⟨rfl, fun _ _ => id⟩
    · exact .inr ⟨w, i, by rw [locate_cmd hloc], hi, exec_eq_next_iff.1 hexec⟩
  · refine .inl ⟨rfl, fun b j hj => ?_⟩
    cases b with
    | segBuf => exact Memory.isSome_writeRange hj k [v]
    | _ => exact hj
  · refine .inl ⟨rfl, fun b j hj => ?_⟩
    cases b with
    | frameIn => exact Memory.isSome_writeRange hj k [v]
    | _ => exact hj

/-- A step that completes releases reset, makes a change of the host's, or runs a command written to `CMD`. -/
theorem step_next_cases (h : step s = .next t) :
    (∃ rest, s.pending = .releaseReset :: rest ∧ s.resetIn = true) ∨ HostChanges s t ∨
    ∃ w i rest, s.about (.wr32 0x0000 w) rest ∧ decode w = .ok i ∧ Completes (s.taking rest) i t := by
  obtain ⟨-, -, rfl⟩ | ⟨e, rest, hp, ⟨-, rfl⟩ | ⟨rfl, hr, -⟩ | ⟨-, rfl⟩ | ⟨hr, hf, haccess⟩⟩ := step_cases h
  · exact .inr (.inl ⟨rfl, fun _ _ => id⟩)
  · exact .inr (.inl ⟨rfl, fun _ _ => id⟩)
  · exact .inl ⟨rest, hp, hr⟩
  · exact .inr (.inl ⟨rfl, fun _ _ => id⟩)
  · obtain ⟨hsame, hdef⟩ | ⟨w, i, rfl, hi, hrun⟩ := HostChanges.of_hostAccess haccess
    · exact .inr (.inl ⟨hsame, hdef⟩)
    · exact .inr (.inr ⟨w, i, rest, ⟨hp, hr, hf⟩, hi, hrun⟩)

/-- No command undefines a cell: SEG_NEXT writes `FRAME_OUT`, RSM_PUSH `RSM_BUF`, and no other a buffer (R38). -/
theorem Completes.isSome_cell (h : Completes s i t) {b : Buf} {j : Nat} (hj : (s.cell b j).isSome) :
    (t.cell b j).isSome := by
  cases h with
  | segNext h hc =>
    cases b with
    | frameOut => exact Memory.isSome_writeRange (Memory.isSome_writeRange hj ..) ..
    | _ => exact hj
  | pushOvercount | pushLast | pushMore =>
    cases b with
    | rsmBuf => exact Memory.isSome_writeRange hj ..
    | _ => exact hj
  | _ => exact hj

/-- In ERROR the Segmenter's state and its error code are left by SEG_START only (R166). -/
theorem Completes.segErr_of_error (h : Completes s i t) (hs : s.segState = .error) :
    (t.segState = .error ∧ t.segErr = s.segErr) ∨
    ∃ mt cmd len, i = .segStart mt cmd len ∧ len.toNat ≤ Config.params.segCapacity := by
  cases h with
  | segStart mt cmd hlen => exact .inr ⟨mt, cmd, _, rfl, hlen⟩
  | segNext hactive => exact absurd (hs.symm.trans hactive) (by decide)
  | segFail hmay =>
    obtain ⟨hstate, -⟩ := State.sendMayFail_iff.1 hmay
    simp [hs] at hstate
  | _ => exact .inl ⟨hs, rfl⟩

theorem Rejects.collecting {n : BitVec 9} {c : Code} (h : Rejects s n c) : s.rsmState = .collecting := by
  cases h with
  | short hc => exact hc
  | mismatch hf => exact hf.state
  | malformed hf => exact hf.state

/-- In ERROR the Reassembler's state and its error code are left by RSM_START only (R166). -/
theorem Completes.rsmErr_of_error (h : Completes s i t) (hs : s.rsmState = .error) :
    (t.rsmState = .error ∧ t.rsmErr = s.rsmErr) ∨ ∃ cmd, i = .rsmStart cmd := by
  have hnot : s.rsmState ≠ .collecting := by simp [hs]
  cases h with
  | rsmStart cmd => exact .inr ⟨cmd, rfl⟩
  | pushRejected h => exact absurd h.collecting hnot
  | pushOversize hp => exact absurd hp.state hnot
  | pushOvercount ht | pushLast ht | pushMore ht => exact absurd ht.state hnot
  | _ => exact .inl ⟨hs, rfl⟩

end Steps

/-- Settles O34: in ERROR only a START or the release of reset writes the state or the error code. -/
theorem errorStatesAreSticky : Obligations.ErrorStatesAreSticky := by
  refine ⟨fun s hs => ⟨exec_segNext_of_not_active (by simp [hs]), exec_segFail_of_not_sendMayFail ?_⟩,
    fun s n hs => exec_rsmPush_of_not_collecting (by simp [hs]), fun s n _ h hmax => exec_setMaxchunk_of_le h hmax s,
    fun s t h hs hleft => ?_, fun s t h hs hleft => ?_⟩
  · simp [State.sendMayFail_iff, hs]
  · obtain ⟨rest, hrelease⟩ | hhost | ⟨w, i, rest, habout, hdec, hrun⟩ := step_next_cases h
    · exact ⟨rest, .inl hrelease⟩
    · rw [hhost.same] at hleft
      simp [hs] at hleft
    · obtain ⟨hstate, herr⟩ | ⟨mt, cmd, len, rfl, hlen⟩ := hrun.segErr_of_error hs
      · exact absurd ⟨hstate, herr⟩ (not_and_or.2 hleft)
      · exact ⟨rest, .inr ⟨w, mt, cmd, len, habout, hdec, hlen⟩⟩
  · obtain ⟨rest, hrelease⟩ | hhost | ⟨w, i, rest, habout, hdec, hrun⟩ := step_next_cases h
    · exact ⟨rest, .inl hrelease⟩
    · rw [hhost.same] at hleft
      simp [hs] at hleft
    · obtain ⟨hstate, herr⟩ | ⟨cmd, rfl⟩ := hrun.rsmErr_of_error hs
      · exact absurd ⟨hstate, herr⟩ (not_and_or.2 hleft)
      · exact ⟨rest, .inr ⟨w, cmd, habout, hdec⟩⟩

/-- Settles O43: neither the host nor a command undefines a cell. -/
theorem definedCellsStayDefined : Obligations.DefinedCellsStayDefined := by
  intro s t h hnot b i hi
  obtain ⟨rest, hrelease, -⟩ | hhost | ⟨w, j, rest, -, -, hrun⟩ := step_next_cases h
  · exact absurd hrelease (hnot rest)
  · exact hhost.defined b i hi
  · exact hrun.isSome_cell hi

/-- Settles O55: no command runs while the mark stands, and the host does not clear it. -/
theorem faultMarkIsNeverCleared : Obligations.FaultMarkIsNeverCleared := by
  refine fun s f hf => ⟨fun t h => ?_, fun e rest hp hr ha hrel => ?_, fun hp => ?_,
    fun rest hp hr => hostStep_releaseReset hp hr⟩
  · obtain hrelease | hhost | ⟨w, i, rest, ⟨-, -, hsound⟩, -, -⟩ := step_next_cases h
    · exact .inr hrelease
    · exact .inl (hhost.same ▸ hf)
    · exact absurd (hf.symm.trans hsound) (by simp)
  · exact (hostStep_of_pending hp).trans (hostEvent_of_fault (s := s.taking rest) ha hrel hr hf)
  · change hostStep _ _ s = _
    rw [hostStep, hp]
    simp only [idle, hf]

/-! ### The record (R42) -/

/-- `r` with the block of `u`: what stands beside it is `r`'s. -/
def State.withBlock (r u : State) : State := { r with toBlock := u.toBlock }

theorem State.eq_withBlock {s t : State} (h : s.toBlock = t.toBlock) : t = t.withBlock s := by
  rw [State.withBlock, h]

section Beside
variable {s t : State} {i : Instr}

/-- A command does the same to the block whatever stands beside it, and leaves that as it is (R42). -/
theorem exec_withBlock (h : exec i s = .next t) (r : State) : exec i (r.withBlock s) = .next (r.withBlock t) := by
  cases hseg : i.isSegmenter with
  | true =>
    refine (exec_of_sameSegmenter (s' := r.withBlock s) hseg h (.refl s)).trans ?_
    conv_rhs => rw [eq_withSegmenter_of_exec hseg h]
    rfl
  | false =>
    cases hrsm : i.isReassembler with
    | true =>
      refine (exec_of_sameReassembler (s' := r.withBlock s) hrsm h (.refl s)).trans ?_
      conv_rhs => rw [eq_withReassembler_of_exec hrsm h]
      rfl
    | false =>
      cases exec_eq_next_iff.1 h with
      | hdrEnc => rfl
      | hdrDec hn => exact exec_hdrDec_of_le hn _
      | raised hr =>
        cases hr with
        | decodeShort hn => exact exec_hdrDec_of_lt hn _
        | maxchunkRange | startRange | nextSequence | failSequence => cases hseg
        | pushSequence | pushRange => cases hrsm
      | setMaxchunk | segStart | segNext | segFail => cases hseg
      | _ => cases hrsm

/-- A transition took `s` to `t`, and the same transition takes `r`, with the block of `s`, to a state with the block of
`t`; where `s` and `r` held one datum read and one count of draws, so do the states after it. -/
def SameBeside (s r t : State) (o : Host.Outcome State Fault Refusal) : Prop :=
  ∃ t', o = .next t' ∧ t'.toBlock = t.toBlock ∧
    (r.readData = s.readData → r.draws = s.draws → t'.readData = t.readData ∧ t'.draws = t.draws)

theorem readRegister_withBlock {a : Reg} (h : readRegister a s = .next t) (r : State) :
    SameBeside s r t (readRegister a (r.withBlock s)) := by
  cases a with
  | cmd => exact absurd h (by simp [readRegister])
  | _ =>
    obtain rfl := Host.Outcome.next.inj h
    exact ⟨_, rfl, rfl, fun _ hdraws => ⟨rfl, hdraws⟩⟩

theorem readCell_withBlock {b : Buf} {k : Nat} (h : readCell b k s = .next t) (r : State) :
    SameBeside s r t (readCell b k (r.withBlock s)) := by
  have hcell : (r.withBlock s).cell b k = s.cell b k := State.cell_congr rfl b k
  rw [readCell] at h ⊢
  rw [hcell]
  split at h
  · obtain rfl := Host.Outcome.next.inj h
    exact ⟨_, rfl, rfl, fun _ hdraws => ⟨rfl, hdraws⟩⟩
  · obtain rfl := Host.Outcome.next.inj h
    exact ⟨_, rfl, rfl, fun _ hdraws => ⟨by rw [← hdraws]; rfl, congrArg (· + 1) hdraws⟩⟩

theorem execWord_withBlock {w : Word} (h : execWord w s = .next t) (r : State) :
    SameBeside s r t (execWord w (r.withBlock s)) := by
  obtain ⟨e, he, rfl⟩ | ⟨i, hi, hexec⟩ := execWord_cases h
  · exact ⟨_, execWord_error he _, rfl, fun hread hdraws => ⟨hread, hdraws⟩⟩
  · obtain ⟨⟨-, -, -, -, -, -, htread, htdraws⟩, -⟩ := onlyItsCommandsWriteARegister i s t hexec
    exact ⟨_, (execWord_ok hi _).trans (exec_withBlock hexec r), rfl,
      fun hread hdraws => ⟨hread.trans htread.symm, hdraws.trans htdraws.symm⟩⟩

theorem writeRegister_withBlock {a : Reg} {v : Word} (h : writeRegister exec a v s = .next t) (r : State) :
    SameBeside s r t (writeRegister exec a v (r.withBlock s)) := by
  cases a with
  | cmd => exact execWord_withBlock h r
  | din =>
    obtain rfl := Host.Outcome.next.inj h
    exact ⟨_, rfl, rfl, fun hread hdraws => ⟨hread, hdraws⟩⟩
  | _ => exact absurd h (by simp [writeRegister])

theorem writeCell_withBlock {b : Buf} {k : Nat} {v : Byte} (h : writeCell b k v s = .next t) (r : State) :
    SameBeside s r t (writeCell b k v (r.withBlock s)) := by
  cases b with
  | segBuf | frameIn =>
    obtain rfl := Host.Outcome.next.inj h
    exact ⟨_, rfl, rfl, fun hread hdraws => ⟨hread, hdraws⟩⟩
  | _ => exact absurd h (by simp [writeCell])

/-- Every host access does the same to the block whatever stands beside it (R42). -/
theorem hostAccess_withBlock {e : HostEvent} (h : hostAccess Config.params exec e s = .next t) (r : State) :
    SameBeside s r t (hostAccess Config.params exec e (r.withBlock s)) := by
  cases e with
  | rd32 a =>
    rw [hostAccess] at h ⊢
    split at h
    · exact readRegister_withBlock h r
    · exact absurd h (by simp)
  | rd8 a =>
    rw [hostAccess] at h ⊢
    split at h
    · exact readCell_withBlock h r
    · exact absurd h (by simp)
  | wr32 a v =>
    rw [hostAccess] at h ⊢
    split at h
    · exact writeRegister_withBlock h r
    · exact absurd h (by simp)
  | wr8 a v =>
    rw [hostAccess] at h ⊢
    split at h
    · exact writeCell_withBlock h r
    · exact absurd h (by simp)
  | otherWidth bits a => exact absurd h (by simp [hostAccess])
  | assertReset | releaseReset =>
    obtain rfl := Host.Outcome.next.inj h
    exact ⟨_, rfl, rfl, fun hread hdraws => ⟨hread, hdraws⟩⟩

end Beside

/-- Settles O54: a command and an access do the same to a block whatever stands beside it. -/
theorem onlyTheRecordIsState : Obligations.OnlyTheRecordIsState := by
  refine ⟨fun i s s' t hblock h => ?_, fun e s s' t rest rest' hblock habout habout' ha hrel h => ?_⟩
  · rw [State.eq_withBlock hblock]
    exact exec_withBlock h s'
  · rw [step_about habout ha hrel] at h
    obtain ⟨t', hstep, htoBlock, hbeside⟩ := hostAccess_withBlock h (s'.taking rest')
    refine ⟨t', ?_, htoBlock, fun hdraws => hbeside rfl hdraws.symm⟩
    rw [step_about habout' ha hrel, State.eq_withBlock (t := s'.taking rest') hblock]
    exact hstep

/-- The state of a reset machine with the block that a record describes (R42). -/
def Record.state (r : Record Config.params) : State :=
  { State.reset with
    lastCode := ⟨r.lastCode⟩, segState := r.segState, rsmState := r.rsmState, segErr := ⟨r.segErr⟩,
    rsmErr := ⟨r.rsmErr⟩, rsmLimitCause := ⟨r.rsmLimitCause⟩, din := r.din.toBitVec, hdrOut := r.hdrOut.toBitVec,
    decMt := ⟨r.decMt⟩, decPbf := ⟨r.decPbf⟩, decCmd := ⟨r.decCmd⟩, decLen := ⟨r.decLen⟩, decRsv := ⟨r.decRsv⟩,
    segMaxChunk := ⟨r.segMaxChunk⟩, segCmd := ⟨r.segCmd⟩, segMt := ⟨r.segMt⟩, segLen := ⟨r.segLen⟩,
    segOff := ⟨r.segOff⟩, segNframes := ⟨r.segNframes⟩, segChunk := ⟨r.segChunk⟩, frameOutLen := ⟨r.frameOutLen⟩,
    rsmCmd := ⟨r.rsmCmd⟩, rsmLen := ⟨r.rsmLen⟩, rsmNframes := ⟨r.rsmNframes⟩,
    segBuf := .ofCells _ r.segBuf, frameOut := .ofCells _ r.frameOut, frameIn := .ofCells _ r.frameIn,
    rsmBuf := .ofCells _ r.rsmBuf, faulted := r.faulted }

theorem Memory.Within.ofCells {n : Nat} (cells : Fin n → Option Byte) : (Memory.ofCells n cells).Within n :=
  ⟨Memory.wf_ofCells n cells, fun _ h => Memory.read_ofCells_outside cells h⟩

theorem Record.state_buffersOk (r : Record Config.params) : BuffersOk r.state :=
  buffersOk_iff.2 ⟨.ofCells _, .ofCells _, .ofCells _, .ofCells _⟩

/-- A record is that of its state. -/
theorem Record.record_state (r : Record Config.params) : r.state.record Config.params = r := by
  have hread {n : Nat} (cells : Fin n → Option Byte) : (fun i : Fin n => (Memory.ofCells n cells).read i.val) = cells :=
    funext (Memory.read_ofCells cells)
  simp only [State.record, Record.state, State.cell, State.buffer, hread]

/-- A block with well-formed buffers is that of its record's state: its buffers list the cells of the record's. -/
theorem State.toBlock_state_record {s : State} (hs : BuffersOk s) :
    (s.record Config.params).state.toBlock = s.toBlock := by
  have hbuffer (b : Buf) : (s.record Config.params).state.buffer b = s.buffer b := by
    refine buffer_eq_of_cell (Record.state_buffersOk _) hs fun i => ?_
    cases b <;> exact Memory.read_ofCells _ i
  calc (s.record Config.params).state.toBlock
      = { (s.record Config.params).state with
          segBuf := s.buffer .segBuf, frameOut := s.buffer .frameOut, frameIn := s.buffer .frameIn,
          rsmBuf := s.buffer .rsmBuf : State }.toBlock := by simp only [← hbuffer]; rfl
    _ = s.toBlock := rfl

/-- Settles O53: the record determines the block, and every record is that of its state. -/
theorem blockIsTheRecord : Obligations.BlockIsTheRecord := by
  refine ⟨fun s t hs ht h => ?_, fun r => ⟨r.state, r.state_buffersOk, r.record_state⟩⟩
  rw [← State.toBlock_state_record hs, h, State.toBlock_state_record ht]

end Sys2Proof.Machine
end
